-- ==== Sys2Proof/Word.lean ====
section
/-! DEFINITION. The word types of the CHIP-8 engine (10_state.md R10, R15, R16; 30_encoding.md R70, R73). -/

namespace Sys2Proof

/-- A byte: the contents of a general register, of a memory cell, of a timer register, or the immediate NN. -/
abbrev Byte := BitVec 8

/-- A 16-bit value of I, PC or a stack entry. -/
abbrev Addr := BitVec 16

/-- A 16-bit word: an opcode, or the key snapshot (bit k is key k). -/
abbrev Word := BitVec 16

/-- One of the fields F, X, Y, N of an opcode (00_scope.md R6). -/
abbrev Nibble := BitVec 4

/-- The field NNN of an opcode. -/
abbrev Imm12 := BitVec 12

/-- A general register's index: every 4-bit value names a register (10_state.md R10). -/
abbrev Reg := Fin 16

/-- VF, register 15: an ordinary register and the flag target (10_state.md R11, R13). -/
abbrev vF : Reg := 15

end Sys2Proof
end

