-- ==== Sys2Proof/Syntax.lean ====
section
/-! DEFINITION. The 34 instructions of 30_encoding.md R76, one constructor per row of spec/opcode_table.json. -/

namespace Sys2Proof

/-- The instructions, in the order of the opcode map (30_encoding.md R76). Operands are named as the fields of R73. -/
inductive Instr where
  /-- `00E0` CLS (40_flow.md R100). -/
  | cls
  /-- `00EE` RET (R101). -/
  | ret
  /-- `1NNN` JP (R102). -/
  | jp (nnn : Imm12)
  /-- `2NNN` CALL (R103). -/
  | call (nnn : Imm12)
  /-- `3XNN` SE Vx, nn (41_skip.md R110). -/
  | seImm (x : Reg) (nn : Byte)
  /-- `4XNN` SNE Vx, nn (R111). -/
  | sneImm (x : Reg) (nn : Byte)
  /-- `5XY0` SE Vx, Vy (R112). -/
  | seReg (x y : Reg)
  /-- `6XNN` LD Vx, nn (42_immediate.md R120). -/
  | ldImm (x : Reg) (nn : Byte)
  /-- `7XNN` ADD Vx, nn (R121). -/
  | addImm (x : Reg) (nn : Byte)
  /-- `8XY0` LD Vx, Vy (43_alu.md R130). -/
  | ldReg (x y : Reg)
  /-- `8XY1` OR Vx, Vy (R131). -/
  | orReg (x y : Reg)
  /-- `8XY2` AND Vx, Vy (R132). -/
  | andReg (x y : Reg)
  /-- `8XY3` XOR Vx, Vy (R133). -/
  | xorReg (x y : Reg)
  /-- `8XY4` ADD Vx, Vy (R134). -/
  | addReg (x y : Reg)
  /-- `8XY5` SUB Vx, Vy (R135). -/
  | sub (x y : Reg)
  /-- `8XY6` SHR Vx, Vy (R136). -/
  | shr (x y : Reg)
  /-- `8XY7` SUBN Vx, Vy (R137). -/
  | subn (x y : Reg)
  /-- `8XYE` SHL Vx, Vy (R138). -/
  | shl (x y : Reg)
  /-- `9XY0` SNE Vx, Vy (41_skip.md R113). -/
  | sneReg (x y : Reg)
  /-- `ANNN` LD I, nnn (44_index_jump_random.md R150). -/
  | ldI (nnn : Imm12)
  /-- `BNNN` JP V0, nnn (R152). -/
  | jpV0 (nnn : Imm12)
  /-- `CXNN` RND Vx, nn (R153). -/
  | rnd (x : Reg) (nn : Byte)
  /-- `DXYN` DRW Vx, Vy, n (45_draw.md R161). -/
  | drw (x y : Reg) (n : Nibble)
  /-- `EX9E` SKP Vx (46_key_timer.md R170). -/
  | skp (x : Reg)
  /-- `EXA1` SKNP Vx (R171). -/
  | sknp (x : Reg)
  /-- `FX07` LD Vx, DT (R173). -/
  | ldVxDt (x : Reg)
  /-- `FX0A` LD Vx, K (R172). -/
  | ldVxK (x : Reg)
  /-- `FX15` LD DT, Vx (R174). -/
  | ldDtVx (x : Reg)
  /-- `FX18` LD ST, Vx (R175). -/
  | ldStVx (x : Reg)
  /-- `FX1E` ADD I, Vx (44_index_jump_random.md R151). -/
  | addI (x : Reg)
  /-- `FX29` LD F, Vx (47_font_bcd_memory.md R180). -/
  | ldF (x : Reg)
  /-- `FX33` LD B, Vx (R181). -/
  | ldB (x : Reg)
  /-- `FX55` LD [I], Vx (R182). -/
  | ldMemVx (x : Reg)
  /-- `FX65` LD Vx, [I] (R183). -/
  | ldVxMem (x : Reg)
  deriving DecidableEq, Repr

end Sys2Proof
end

