-- ==== Sys2Proof/Config.lean ====
section
/-! DEFINITION. The configuration of the engine (00_scope.md R5) and the free inputs of its environment. -/

namespace Sys2Proof

/-- TICK_ORDER (00_scope.md R5, 60_exceptions.md R214): which Timer the driver ticks first in one iteration. -/
inductive TickOrder where
  | instrFirst
  | delayFirst
  deriving DecidableEq, Repr

/-- The parameters of 00_scope.md R5, fixed before execution begins; no step changes one.
They are plain data and stand in State, so that a statement about every state is about every configuration
(DESIGN CHOICE, log entry 1). -/
structure Config where
  /-- MEM_SIZE, the number of bytes of memory. -/
  memSize : Nat
  /-- FONT_BASE, where the font image is loaded. -/
  fontBase : Addr
  /-- PROG_BASE, where the program image is loaded, and the reset value of PC. -/
  progBase : Addr
  /-- DISP_W, columns of the display. -/
  dispW : Nat
  /-- DISP_H, rows of the display. -/
  dispH : Nat
  /-- DT_FREQ, the value DT wraps to from 0. -/
  dtFreq : Nat
  /-- ICLK_FREQ, the value the instruction Timer's count wraps to from 0. -/
  iclkFreq : Nat
  /-- Q_SHIFT_ASSIGN: the shifts shift VY. -/
  qShiftAssign : Bool
  /-- Q_JUMP_VX: BNNN adds VX. -/
  qJumpVx : Bool
  /-- Q_INDEX_OVF_FLAG: FX1E writes VF. -/
  qIndexOvfFlag : Bool
  /-- Q_MEM_INC_I: FX55 and FX65 advance I. -/
  qMemIncI : Bool
  /-- FONT_ADDR as its table of 256 values, or none for the default formula of 47_font_bcd_memory.md R180
  (DESIGN CHOICE, log entry 3: a table holds every function of the byte). -/
  fontTable : Option (Vector Addr 256)
  /-- DT_RESET, the value of DT after reset. -/
  dtReset : Byte
  /-- TICK_ORDER. -/
  tickOrder : TickOrder
  /-- The instruction Timer's period, in the driver's time unit (60_exceptions.md R211; log entry 13). -/
  iclkPeriod : Nat
  /-- The delay Timer's period, in the driver's time unit (60_exceptions.md R211; log entry 13). -/
  dclkPeriod : Nat
  deriving DecidableEq, Repr

/-- The canonical parameters: 00_scope.md R5's column, and the conventions of 95_test_vectors.md for the four flags.
DESIGN CHOICE (log entries 2, 13): the flags, DT_RESET, TICK_ORDER, ICLK_FREQ and the two periods are OPEN in the spec
(the periods are one second and one sixtieth of a second in nanoseconds, rounded down). -/
def Config.canonical : Config where
  memSize := 4096
  fontBase := 0x50
  progBase := 0x200
  dispW := 64
  dispH := 32
  dtFreq := 60
  iclkFreq := 1
  qShiftAssign := false
  qJumpVx := false
  qIndexOvfFlag := false
  qMemIncI := false
  fontTable := none
  dtReset := 0
  tickOrder := .instrFirst
  iclkPeriod := 1000000000
  dclkPeriod := 16666666

/-- What a byte of memory that neither the loader nor a program has written reads as: 0x00 (10_state.md R37, the
spec's decision D17; log entry 6). -/
def Config.blankByte : Byte := 0

/-- The free key snapshot of the n-th instruction step for which the environment's event list supplies none
(10_state.md R31: unconstrained between steps; log entry 9). It has no body: nothing can be proved of its value. -/
opaque Config.freeKeys : Nat → Word

/-- The free random byte of the n-th instruction step for which the environment's event list supplies none
(10_state.md R32: under no law; log entry 10). It has no body: nothing can be proved of its value. -/
opaque Config.freeRandom : Nat → Byte

end Sys2Proof
end

