-- ==== Sys2Proof/Machine/State.lean ====
section
/-! DEFINITION. The state of the engine (10_state.md R29), its inputs, its events and the reset state (R37). -/

namespace Sys2Proof.Machine

/-- The cause held with `halted` (10_state.md R25). -/
inductive HaltCause where
  /-- The fetch at this PC found a byte out of bounds (60_exceptions.md R202). -/
  | fetchOutOfBounds (pc : Addr)
  deriving DecidableEq, Repr

/-- One record of `errlog` (10_state.md R25; 60_exceptions.md R201). -/
structure ErrRecord where
  addr : Addr
  opcode : Word
  deriving DecidableEq, Repr

/-- The two fields of a Timer that change (60_exceptions.md R211): its count and its accumulated delta. -/
structure Timer where
  value : Nat
  acc : Nat
  deriving DecidableEq, Repr

/-- What the environment does to the engine at an instruction boundary (10_state.md R30 to R35). -/
inductive Event where
  /-- An instruction tick with the key snapshot and the random byte of that step (R30, R31, R32; 30_encoding.md R71). -/
  | instrTick (keys : Word) (rnd : Byte)
  /-- A delay tick (R30; 60_exceptions.md R212). -/
  | delayTick
  /-- `Tick` of the instruction Timer; if it fires, one instruction step follows at once (60_exceptions.md R213, R214). -/
  | tickInstrTimer (delta : Nat) (keys : Word) (rnd : Byte)
  /-- `Tick` of the delay Timer (60_exceptions.md R213). -/
  | tickDelayTimer (delta : Nat)
  /-- One driver iteration: both Timers are fed the same delta, in the order TICK_ORDER gives (60_exceptions.md R214). -/
  | driver (delta : Nat) (keys : Word) (rnd : Byte)
  /-- The renderer reads the display (R33). -/
  | dispRead
  /-- The host ends the delivery of ticks (R35). -/
  | stop
  /-- Reset with the loader's font and program images; `none` is an unreadable image (R34; 60_exceptions.md R203;
  70_reset_and_hazards.md R230, R231). -/
  | reset (font prog : Option (List Byte))
  deriving DecidableEq, Repr

/-- Why the machine stops with a fault. -/
inductive Fault where
  /-- LoadFailure (60_exceptions.md R203): an image the loader should supply is unreadable and no engine is
  constructed. Raised by `State.construct` and by the reset event only. It is the spec's own event, so it is safe;
  no instruction raises it. -/
  | loadFailure
  deriving DecidableEq, Repr

/-- Why an instruction has no meaning. -/
inductive Refusal where
  /-- Raised by `exec` for an instruction without a meaning. No arm raises it: every instruction is modelled. Safe. -/
  | notModelled (mnemonic : String)
  deriving DecidableEq, Repr

/-- Memory: the bytes that differ from `Config.blankByte`, by rising address (log entry 6). -/
abbrev Memory := List Host.Cell

/-- The canonical form of memory: addresses strictly rising, no entry equal to what an unlisted address reads as, and
every address inside MEM_SIZE (10_state.md R27). -/
abbrev Memory.wf (size : Nat) (m : Memory) : Prop :=
  (m.map Prod.fst).Pairwise (· < ·) ∧ ∀ c ∈ m, c.2 ≠ Config.blankByte ∧ c.1 < size

/-- The pixels, a list of rows from row 0, each a list of columns from column 0; true is on (10_state.md R23). -/
abbrev Grid := List (List Bool)

/-- The grid is DISP_H rows of DISP_W pixels (10_state.md R23). -/
abbrev Grid.wf (w h : Nat) (g : Grid) : Prop := g.length = h ∧ ∀ row ∈ g, row.length = w

/-- Every pixel off. -/
def Grid.blank (w h : Nat) : Grid := List.replicate h (List.replicate w false)

/-- The state: the complete state vector of 10_state.md R29, the Timer dividers of R28, the configuration, and the
environment's inputs. Plain data only. -/
structure State where
  /-- The configuration (00_scope.md R5); no step changes it (log entry 1). -/
  cfg : Config
  /-- V0..VF (R10). -/
  v : Vector Byte 16
  /-- I (R15). -/
  i : Addr
  /-- PC (R16). -/
  pc : Addr
  /-- The stack; the last element is the top (R18). -/
  stack : List Addr
  /-- Memory (R27). -/
  mem : Memory
  /-- The display (R23). -/
  px : Grid
  /-- DT, the delay Timer's value (R21). -/
  dt : Byte
  /-- ST (R22). -/
  st : Byte
  /-- disp_changed (R24). -/
  dispChanged : Bool
  /-- halted, with its cause (R25). -/
  halted : Option HaltCause
  /-- errlog (R25). -/
  errlog : List ErrRecord
  /-- The instruction Timer (R28; 60_exceptions.md R211). -/
  iclk : Timer
  /-- The delay Timer's accumulated delta; its value is DT (R28; 60_exceptions.md R211). -/
  dtAcc : Nat
  /-- Input: the key snapshot of this instruction step (R31). -/
  keys : Word
  /-- Input: the random byte of this instruction step (R32). -/
  rnd : Byte
  /-- Input: what the environment does next, first to come first (R30, R33, R34, R35). -/
  events : List Event
  /-- Input: the host has ended the delivery of ticks (R35). -/
  stopped : Bool
  /-- The model's own counter of free input draws (log entries 9, 10). -/
  freeDraws : Nat
  deriving DecidableEq, Repr

/-- The state after reset with nothing loaded, for a configuration (10_state.md R37). The instruction Timer's value is
unspecified there (DESIGN CHOICE 0, log entry 7); the input fields are the model's own (DESIGN CHOICE, log entry 8). -/
def State.resetWith (c : Config) : State where
  cfg := c
  v := Vector.replicate 16 0
  i := 0
  pc := c.progBase
  stack := []
  mem := []
  px := Grid.blank c.dispW c.dispH
  dt := c.dtReset
  st := 0
  dispChanged := false
  halted := none
  errlog := []
  iclk := ⟨0, 0⟩
  dtAcc := 0
  keys := 0
  rnd := 0
  events := []
  stopped := false
  freeDraws := 0

/-- The state after reset of the machine with the canonical parameters (DESIGN CHOICE, log entry 2), empty images. -/
def State.reset : State := State.resetWith Config.canonical

/-- The outcome of an operation that may stop. -/
abbrev Out := Host.Outcome State Fault Refusal

end Sys2Proof.Machine
end

