-- ==== Sys2Proof/Machine/Ops.lean ====
section
/-! DEFINITION. The named operations over registers, memory, stack, display, timers and events: the primitives of
00_scope.md R7, the Timer of 60_exceptions.md R212 and R213, the error events of R200, and the fetch. -/

namespace Sys2Proof.Machine

/-! ## Registers -/

/-- `V[r]` (00_scope.md R7). -/
def State.getV (s : State) (r : Reg) : Byte := s.v.get r

/-- `V[r] <- b` (00_scope.md R7); no register is hardwired (10_state.md R10). -/
def State.setV (s : State) (r : Reg) (b : Byte) : State := { s with v := s.v.set r.val b r.isLt }

/-- `I <- a`. -/
def State.setI (s : State) (a : Addr) : State := { s with i := a }

/-- `PC <- a`. -/
def State.setPC (s : State) (a : Addr) : State := { s with pc := a }

/-- `DT <- b`. -/
def State.setDT (s : State) (b : Byte) : State := { s with dt := b }

/-- `ST <- b`. -/
def State.setST (s : State) (b : Byte) : State := { s with st := b }

/-- The flag: VF is written with 0 or 1, as the last effect of a flag-defining instruction (10_state.md R13, R14). -/
def State.setFlag (s : State) (b : Byte) : State := s.setV vF b

/-- The skip of 41_skip.md: PC advances by a further 2, modulo 2^16 (10_state.md R17, the spec's decision D2; log entry 16). -/
def State.skipIf (s : State) (c : Bool) : State := s.setPC (if c then s.pc + 2 else s.pc)

/-! ## Memory -/

/-- The byte a canonical memory holds at an address. -/
def Memory.get (m : Memory) (a : Nat) : Byte :=
  match m with
  | [] => Config.blankByte
  | c :: cs => if a = c.1 then c.2 else Memory.get cs a

/-- Memory with one byte changed, in canonical form again. -/
def Memory.set (m : Memory) (a : Nat) (b : Byte) : Memory :=
  match m with
  | [] => if b = Config.blankByte then [] else [(a, b)]
  | c :: cs =>
    if a < c.1 then (if b = Config.blankByte then c :: cs else (a, b) :: c :: cs)
    else if a = c.1 then (if b = Config.blankByte then cs else (a, b) :: cs)
    else c :: Memory.set cs a b

/-- `MemRead(a, 1)`: 0 when out of bounds, and no state changes (20_memory.md R41). -/
def State.memRead (s : State) (a : Nat) : Byte :=
  if a < s.cfg.memSize then Memory.get s.mem a else 0

/-- `MemWrite(a, 1, b)`: an out of bounds byte is silently dropped (20_memory.md R42). -/
def State.memWrite (s : State) (a : Nat) (b : Byte) : State :=
  { s with mem := if a < s.cfg.memSize then Memory.set s.mem a b else s.mem }

/-- `write(a, bytes)`: each byte at increasing addresses, each bounds-checked alone (20_memory.md R42). Addresses are
unbounded sums (R45, the spec's decision D3; log entry 17). -/
def State.memWriteAll (s : State) (a : Nat) (bs : List Byte) : State :=
  match bs with
  | [] => s
  | b :: rest => (s.memWrite a b).memWriteAll (a + 1) rest

/-- `n` bytes from `a` upward, each bounds-checked alone (20_memory.md R46). -/
def State.memReadAll (s : State) (a n : Nat) : List Byte := (List.range n).map fun k => s.memRead (a + k)

/-! ## Stack -/

/-- `Push(a)` (10_state.md R18): it never fails. -/
def State.push (s : State) (a : Addr) : State := { s with stack := s.stack ++ [a] }

/-- What `Pop()` returns: the logical top, 0 on an empty stack (10_state.md R19). -/
def State.top (s : State) : Addr := s.stack.getLast?.getD 0

/-- What `Pop()` leaves: the stack without its top, unchanged when empty (10_state.md R19). -/
def State.dropTop (s : State) : State := { s with stack := s.stack.dropLast }

/-! ## Display -/

/-- `px[x][y]`; off outside the grid (10_state.md R23). -/
def Grid.pixel (g : Grid) (x y : Nat) : Bool := (g.getD y []).getD x false

/-- `px[x][y] <- px[x][y] XOR 1`. -/
def Grid.toggle (g : Grid) (x y : Nat) : Grid := g.modify y fun row => row.modify x fun b => !b

/-- The bits of a sprite row, the leftmost (bit 7) first (45_draw.md R160). -/
def spriteBits (b : Byte) : List Bool := (List.range 8).map fun j => b.getLsbD (7 - j)

/-- The columns of one sprite row from column `x` of row `y`: a set bit toggles its pixel and collides when the pixel was
on; columns at or past the width are clipped (45_draw.md R160). The pair is the grid and whether there was a collision. -/
def drawBits (w x y : Nat) (bits : List Bool) (d : Grid × Bool) : Grid × Bool :=
  match bits with
  | [] => d
  | b :: rest =>
    if x < w then
      drawBits w (x + 1) y rest (if b then (d.1.toggle x y, d.2 || d.1.pixel x y) else d)
    else d

/-- The rows of a sprite from row `y`; rows at or past the height are clipped (45_draw.md R160). -/
def drawRows (w h x y : Nat) (rows : List Byte) (d : Grid × Bool) : Grid × Bool :=
  match rows with
  | [] => d
  | r :: rest => if y < h then drawRows w h x (y + 1) rest (drawBits w x y (spriteBits r) d) else d

/-- `Draw(x, y, rows)`: the start wraps, the body clips (45_draw.md R160; 90_conflicts.md C1). -/
def drawSprite (w h x y : Nat) (rows : List Byte) (g : Grid) : Grid × Bool :=
  drawRows w h (x % w) (y % h) rows (g, false)

/-- A new grid, with disp_changed set (10_state.md R24, the spec's decision D21; log entry 24). -/
def State.showGrid (s : State) (g : Grid) : State := { s with px := g, dispChanged := true }

/-- What `disp_read` returns: the whole of px and disp_changed (10_state.md R33). -/
def State.displayPort (s : State) : Grid × Bool := (s.px, s.dispChanged)

/-- What `disp_read` leaves: disp_changed is cleared and nothing else changes (10_state.md R33). -/
def State.displayWasRead (s : State) : State := { s with dispChanged := false }

/-! ## Timers -/

/-- `TimerStep` on a count (60_exceptions.md R212): 0 wraps to the frequency, else one less. -/
def timerStep (frequency value : Nat) : Nat := if value = 0 then frequency else value - 1

/-- `Tick(t, delta)` (60_exceptions.md R213): the remainder is discarded, and one step at most is made. -/
def Timer.tick (frequency period : Nat) (t : Timer) (delta : Nat) : Timer × Bool :=
  if period ≤ t.acc + delta then (⟨timerStep frequency t.value, 0⟩, true) else (⟨t.value, t.acc + delta⟩, false)

/-- The delay step (60_exceptions.md R212; 10_state.md R21). -/
def State.delayStep (s : State) : State := s.setDT (BitVec.ofNat 8 (timerStep s.cfg.dtFreq s.dt.toNat))

/-- The delay Timer as a Timer: its value is DT (60_exceptions.md R211). -/
def State.delayTimer (s : State) : Timer := ⟨s.dt.toNat, s.dtAcc⟩

/-- `Tick` of the delay Timer (60_exceptions.md R213). -/
def State.tickDelay (s : State) (delta : Nat) : State :=
  let t := (Timer.tick s.cfg.dtFreq s.cfg.dclkPeriod s.delayTimer delta).1
  { s with dt := BitVec.ofNat 8 t.value, dtAcc := t.acc }

/-- Whether `Tick` of the instruction Timer fires (60_exceptions.md R213, R215). -/
def State.instrTimerFires (s : State) (delta : Nat) : Bool :=
  (Timer.tick s.cfg.iclkFreq s.cfg.iclkPeriod s.iclk delta).2

/-- `Tick` of the instruction Timer (60_exceptions.md R213). -/
def State.tickInstr (s : State) (delta : Nat) : State :=
  { s with iclk := (Timer.tick s.cfg.iclkFreq s.cfg.iclkPeriod s.iclk delta).1 }

/-! ## Error events -/

/-- The three events of 60_exceptions.md R200. -/
inductive ErrorEvent where
  | unrecognizedOpcode (addr : Addr) (opcode : Word)
  | fetchOutOfBounds (pc : Addr)
  | loadFailure
  deriving DecidableEq, Repr

/-- The code of an event (60_exceptions.md R200, the spec's decision D6). -/
def ErrorEvent.code (e : ErrorEvent) : Nat :=
  match e with
  | .unrecognizedOpcode _ _ => 1
  | .fetchOutOfBounds _ => 2
  | .loadFailure => 3

/-- TAKING AN EVENT: `raise <Event>` (00_scope.md R7). This machine's whole exception entry is this: no control transfer,
nothing saved, no mode (60_exceptions.md R207), and so there is no return from it (R208).
UnrecognizedOpcode appends its record (R201); FetchOutOfBounds sets halted with its cause (R202); LoadFailure leaves no
engine (R203). -/
def State.raise (s : State) (e : ErrorEvent) : Out :=
  match e with
  | .unrecognizedOpcode addr opcode => .next { s with errlog := s.errlog ++ [⟨addr, opcode⟩] }
  | .fetchOutOfBounds pc => .next { s with halted := some (.fetchOutOfBounds pc) }
  | .loadFailure => .fault .loadFailure

/-! ## Fetch -/

/-- Both bytes of the word at PC are in bounds; PC + 1 does not wrap (30_encoding.md R72; 20_memory.md R45). -/
def State.fetchInBounds (s : State) : Bool := decide (s.pc.toNat + 1 < s.cfg.memSize)

/-- `MemRead(PC, 1) ++ MemRead(PC + 1, 1)`, big-endian (30_encoding.md R72; 20_memory.md R44). -/
def State.fetchWord (s : State) : Word := wordOfBytes (s.memRead s.pc.toNat) (s.memRead (s.pc.toNat + 1))

/-- The fetch's advance of PC, modulo 2^16 (30_encoding.md R72, the spec's decision D2; log entry 16). -/
def State.advancePC (s : State) : State := s.setPC (s.pc + 2)

/-- `Fetch()` (30_encoding.md R72): the word and the state with PC advanced, or FetchOutOfBounds (the spec's decision
D1; log entry 14). -/
def State.fetch (s : State) : Except ErrorEvent (Word × State) :=
  if s.fetchInBounds then .ok (s.fetchWord, s.advancePC) else .error (.fetchOutOfBounds s.pc)

/-! ## Reset and inputs -/

/-- The inputs of one instruction step, constant within it (10_state.md R31, R32; 30_encoding.md R71). -/
def State.latch (s : State) (keys : Word) (rnd : Byte) : State := { s with keys := keys, rnd := rnd }

/-- One free input draw is used up (log entries 9, 10). -/
def State.countDraw (s : State) : State := { s with freeDraws := s.freeDraws + 1 }

/-- What is left of the environment's events. -/
def State.setEvents (s : State) (es : List Event) : State := { s with events := es }

/-- The host's stop (10_state.md R35). -/
def State.setStopped (s : State) : State := { s with stopped := true }

/-- The engine's state of 10_state.md R37 before loading; configuration and inputs stay (log entry 27). -/
def State.resetEngine (s : State) : State :=
  { State.resetWith s.cfg with
    keys := s.keys, rnd := s.rnd, events := s.events, stopped := s.stopped, freeDraws := s.freeDraws }

/-- The loader's writes: the font at FONT_BASE, then the program at PROG_BASE, so that the program wins an overlap
(70_reset_and_hazards.md R232, the spec's decision D27; log entry 26). -/
def State.load (s : State) (font prog : List Byte) : State :=
  (s.memWriteAll s.cfg.fontBase.toNat font).memWriteAll s.cfg.progBase.toNat prog

/-- Construction (70_reset_and_hazards.md R231): reset, then load; an unreadable image (`none`) is LoadFailure, and there
is no engine (60_exceptions.md R203; log entry 29). -/
def State.construct (s : State) (font prog : Option (List Byte)) : Out :=
  match font, prog with
  | some f, some p => .next (s.resetEngine.load f p)
  | _, _ => s.raise .loadFailure

end Sys2Proof.Machine
end

