-- ==== Sys2Proof/Machine/Flags.lean ====
section
/-! DEFINITION. The values the flag writers give VF, always 0 or 1 (10_state.md R14). -/

namespace Sys2Proof.Machine

/-- A condition as a flag value. -/
def flagOf (c : Bool) : Byte := if c then 1 else 0

/-- Carry out of bit 7 of a sum (43_alu.md R134). -/
def carryFlag (a b : Byte) : Byte := flagOf (decide (255 < a.toNat + b.toNat))

/-- No borrow in `a - b` (43_alu.md R135, R137). -/
def noBorrowFlag (a b : Byte) : Byte := flagOf (decide (b.toNat ≤ a.toNat))

/-- The bit a right shift by one moves out (43_alu.md R136). -/
def lowBitFlag (a : Byte) : Byte := flagOf (a.getLsbD 0)

/-- The bit a left shift by one moves out (43_alu.md R138). -/
def highBitFlag (a : Byte) : Byte := flagOf (a.getLsbD 7)

/-- The sum of I and a byte is beyond 0x0FFF (44_index_jump_random.md R151). -/
def indexOverflowFlag (i : Addr) (b : Byte) : Byte := flagOf (decide (0x0FFF < i.toNat + b.toNat))

end Sys2Proof.Machine
end

