-- ==== Sys2Proof/Machine/Operands.lean ====
section
/-! DEFINITION. The operand forms of the instructions: what each reads, before anything is written (00_scope.md R8). -/

namespace Sys2Proof.Machine

/-- NNN as an address, zero-extended (30_encoding.md R75). -/
def addrOfImm (nnn : Imm12) : Addr := nnn.setWidth 16

/-- A byte zero-extended to 16 bits. -/
def addrOfByte (b : Byte) : Addr := b.setWidth 16

/-- The nibble X of a BNNN word, the top nibble of NNN (30_encoding.md R75). -/
def offsetReg (nnn : Imm12) : Reg := regOf (nnn.extractLsb' 8 4)

/-- The source of a shift: VY with Q_SHIFT_ASSIGN, else VX (43_alu.md R136). -/
def State.shiftSource (s : State) (x y : Reg) : Byte := if s.cfg.qShiftAssign then s.getV y else s.getV x

/-- The offset of BNNN: VX with Q_JUMP_VX, else V0 (44_index_jump_random.md R152). -/
def State.jumpOffset (s : State) (nnn : Imm12) : Byte := if s.cfg.qJumpVx then s.getV (offsetReg nnn) else s.getV 0

/-- `KeyDown(b)`: a key number above 15 is never down (46_key_timer.md, head; the spec's decision D11; log entry 21). -/
def State.keyDown (s : State) (b : Byte) : Bool := decide (b.toNat ≤ 15) && s.keys.getLsbD b.toNat

/-- The least k in 0..15 with `keys[k] = 1` (46_key_timer.md R172, the spec's decision D10; log entry 20). -/
def lowestKey (keys : Word) : Byte := BitVec.ofNat 8 (((List.range 16).find? fun k => keys.getLsbD k).getD 0)

/-- FONT_ADDR: the configured function, or the default `FONT_BASE + 5 * (b AND 0x0F)` modulo 2^16
(47_font_bcd_memory.md R180; log entry 3). -/
def fontAddr (c : Config) (b : Byte) : Addr :=
  match c.fontTable with
  | none => c.fontBase + BitVec.ofNat 16 (5 * (b &&& 0x0F).toNat)
  | some t => t.get b.toFin

/-- Effective data address I + k, an unbounded sum (20_memory.md R45; log entry 17). -/
def State.effAddr (s : State) (k : Nat) : Nat := s.i.toNat + k

/-- The values of V0..VX (47_font_bcd_memory.md R182). -/
def State.regsUpTo (s : State) (x : Reg) : List Byte := s.v.toList.take (x.val + 1)

/-- V0..VX loaded with the bytes at I upward, the other registers kept (47_font_bcd_memory.md R183). -/
def State.loadRegs (s : State) (x : Reg) : State :=
  { s with v := Vector.ofFn fun k => if k ≤ x then s.memRead (s.effAddr k.val) else s.getV k }

/-- The N bytes of a sprite at I upward (45_draw.md R161). -/
def State.spriteRows (s : State) (n : Nibble) : List Byte := s.memReadAll (s.effAddr 0) n.toNat

/-- The hundreds, tens and ones of a byte (47_font_bcd_memory.md R181). -/
def bcdDigits (b : Byte) : List Byte :=
  [BitVec.ofNat 8 (b.toNat / 100), BitVec.ofNat 8 (b.toNat / 10 % 10), BitVec.ofNat 8 (b.toNat % 10)]

/-- The optional post-increment of I by X + 1, modulo 2^16 (47_font_bcd_memory.md R182, R183, the spec's decision D4;
log entry 18). -/
def State.advanceI (s : State) (x : Reg) : State :=
  s.setI (bif s.cfg.qMemIncI then s.i + BitVec.ofNat 16 (x.val + 1) else s.i)

end Sys2Proof.Machine
end

