-- ==== Sys2Proof/Machine/Alu.lean ====
section
/-! DEFINITION. The 8XY_ ALU family (43_alu.md R130 to R138): operands are read first, then VX is written, then VF, last. -/

namespace Sys2Proof.Machine

/-- Write VX, then VF last: with X = 15 the flag overwrites the result (10_state.md R13). -/
def State.setResultAndFlag (s : State) (x : Reg) (result flag : Byte) : State := (s.setV x result).setFlag flag

/-- `8XY0` (R130). -/
def execLdReg (x y : Reg) (s : State) : Out := .next (s.setV x (s.getV y))

/-- `8XY1`, no flag (R131). -/
def execOrReg (x y : Reg) (s : State) : Out := .next (s.setV x (s.getV x ||| s.getV y))

/-- `8XY2`, no flag (R132). -/
def execAndReg (x y : Reg) (s : State) : Out := .next (s.setV x (s.getV x &&& s.getV y))

/-- `8XY3`, no flag (R133). -/
def execXorReg (x y : Reg) (s : State) : Out := .next (s.setV x (s.getV x ^^^ s.getV y))

/-- `8XY4` (R134). -/
def execAddReg (x y : Reg) (s : State) : Out :=
  .next (s.setResultAndFlag x (s.getV x + s.getV y) (carryFlag (s.getV x) (s.getV y)))

/-- `8XY5` (R135). -/
def execSub (x y : Reg) (s : State) : Out :=
  .next (s.setResultAndFlag x (s.getV x - s.getV y) (noBorrowFlag (s.getV x) (s.getV y)))

/-- `8XY6` (R136). -/
def execShr (x y : Reg) (s : State) : Out :=
  .next (s.setResultAndFlag x (s.shiftSource x y >>> 1) (lowBitFlag (s.shiftSource x y)))

/-- `8XY7` (R137). -/
def execSubn (x y : Reg) (s : State) : Out :=
  .next (s.setResultAndFlag x (s.getV y - s.getV x) (noBorrowFlag (s.getV y) (s.getV x)))

/-- `8XYE` (R138). -/
def execShl (x y : Reg) (s : State) : Out :=
  .next (s.setResultAndFlag x (s.shiftSource x y <<< 1) (highBitFlag (s.shiftSource x y)))

end Sys2Proof.Machine
end

