-- ==== Sys2Proof/Machine/Draw.lean ====
section
/-! DEFINITION. Sprite draw (45_draw.md R160, R161). -/

namespace Sys2Proof.Machine

/-- The pixels and the collision of a DXYN: the coordinates are the values of VX and VY before VF is written
(R161, the spec's decision D8; log entry 25). -/
def State.drawResult (s : State) (x y : Reg) (n : Nibble) : Grid × Bool :=
  drawSprite s.cfg.dispW s.cfg.dispH (s.getV x).toNat (s.getV y).toNat (s.spriteRows n) s.px

/-- `DXYN` (R161). -/
def execDrw (x y : Reg) (n : Nibble) (s : State) : Out :=
  .next ((s.showGrid (s.drawResult x y n).1).setFlag (flagOf (s.drawResult x y n).2))

end Sys2Proof.Machine
end

