-- ==== Sys2Proof/Machine/Flow.lean ====
section
/-! DEFINITION. Clear screen, return, jump, call (40_flow.md R100 to R103). Every meaning runs after the fetch: PC is
already the address of the next instruction (00_scope.md R8). -/

namespace Sys2Proof.Machine

/-- `00E0` (R100). -/
def execCls (s : State) : Out := .next (s.showGrid (Grid.blank s.cfg.dispW s.cfg.dispH))

/-- `00EE` (R101). -/
def execRet (s : State) : Out := .next (s.dropTop.setPC s.top)

/-- `1NNN` (R102). -/
def execJp (nnn : Imm12) (s : State) : Out := .next (s.setPC (addrOfImm nnn))

/-- `2NNN` (R103). -/
def execCall (nnn : Imm12) (s : State) : Out := .next ((s.push s.pc).setPC (addrOfImm nnn))

end Sys2Proof.Machine
end

