-- ==== Sys2Proof/Machine/FontMem.lean ====
section
/-! DEFINITION. Font lookup, binary-coded decimal, register store and load (47_font_bcd_memory.md R180 to R183). -/

namespace Sys2Proof.Machine

/-- `FX29` (R180). -/
def execLdF (x : Reg) (s : State) : Out := .next (s.setI (fontAddr s.cfg (s.getV x)))

/-- `FX33` (R181): I is not changed. -/
def execLdB (x : Reg) (s : State) : Out := .next (s.memWriteAll (s.effAddr 0) (bcdDigits (s.getV x)))

/-- `FX55` (R182): the addresses are those of I at entry. -/
def execLdMemVx (x : Reg) (s : State) : Out := .next ((s.memWriteAll (s.effAddr 0) (s.regsUpTo x)).advanceI x)

/-- `FX65` (R183): the addresses are those of I at entry. -/
def execLdVxMem (x : Reg) (s : State) : Out := .next ((s.loadRegs x).advanceI x)

end Sys2Proof.Machine
end

