-- ==== Sys2Proof/Machine/Immediate.lean ====
section
/-! DEFINITION. Register set and add immediate (42_immediate.md R120, R121). -/

namespace Sys2Proof.Machine

/-- `6XNN` (R120). -/
def execLdImm (x : Reg) (nn : Byte) (s : State) : Out := .next (s.setV x nn)

/-- `7XNN`: wraps, no flag (R121). -/
def execAddImm (x : Reg) (nn : Byte) (s : State) : Out := .next (s.setV x (s.getV x + nn))

end Sys2Proof.Machine
end

