-- ==== Sys2Proof/Machine/Index.lean ====
section
/-! DEFINITION. Index set and add, jump with offset, random (44_index_jump_random.md R150 to R153). -/

namespace Sys2Proof.Machine

/-- `ANNN` (R150). -/
def execLdI (nnn : Imm12) (s : State) : Out := .next (s.setI (addrOfImm nnn))

/-- `FX1E` (R151): I is the sum modulo 2^16; VF only with Q_INDEX_OVF_FLAG, last (the spec's decision D9; log entry 19). -/
def execAddI (x : Reg) (s : State) : Out :=
  let t := s.setI (s.i + addrOfByte (s.getV x))
  .next (if s.cfg.qIndexOvfFlag then t.setFlag (indexOverflowFlag s.i (s.getV x)) else t)

/-- `BNNN` (R152): the sum is not masked to 12 bits. -/
def execJpV0 (nnn : Imm12) (s : State) : Out := .next (s.setPC (addrOfImm nnn + addrOfByte (s.jumpOffset nnn)))

/-- `CXNN` (R153): the random byte is an input of this step (10_state.md R32). -/
def execRnd (x : Reg) (nn : Byte) (s : State) : Out := .next (s.setV x (s.rnd &&& nn))

end Sys2Proof.Machine
end

