-- ==== Sys2Proof/Machine/KeyTimer.lean ====
section
/-! DEFINITION. Key query, key wait, timer get and set (46_key_timer.md R170 to R175). -/

namespace Sys2Proof.Machine

/-- `EX9E` (R170). -/
def execSkp (x : Reg) (s : State) : Out := .next (s.skipIf (s.keyDown (s.getV x)))

/-- `EXA1` (R171). -/
def execSknp (x : Reg) (s : State) : Out := .next (s.skipIf (!s.keyDown (s.getV x)))

/-- `FX0A` (R172): no key down undoes the fetch's advance, so that the next tick fetches this instruction again; else VX is
the least key down (the spec's decision D10; log entry 20). -/
def execLdVxK (x : Reg) (s : State) : Out :=
  .next (if s.keys = 0 then s.setPC (s.pc - 2) else s.setV x (lowestKey s.keys))

/-- `FX07` (R173). -/
def execLdVxDt (x : Reg) (s : State) : Out := .next (s.setV x s.dt)

/-- `FX15`, unclamped; the accumulated delta is kept (R174; 90_conflicts.md C2). -/
def execLdDtVx (x : Reg) (s : State) : Out := .next (s.setDT (s.getV x))

/-- `FX18` (R175, the spec's decision D13; log entry 22). -/
def execLdStVx (x : Reg) (s : State) : Out := .next (s.setST (s.getV x))

end Sys2Proof.Machine
end

