-- ==== Sys2Proof/Machine/Skip.lean ====
section
/-! DEFINITION. The conditional skips (41_skip.md R110 to R113). -/

namespace Sys2Proof.Machine

/-- `3XNN` (R110). -/
def execSeImm (x : Reg) (nn : Byte) (s : State) : Out := .next (s.skipIf (decide (s.getV x = nn)))

/-- `4XNN` (R111). -/
def execSneImm (x : Reg) (nn : Byte) (s : State) : Out := .next (s.skipIf (decide (s.getV x ≠ nn)))

/-- `5XY0` (R112). -/
def execSeReg (x y : Reg) (s : State) : Out := .next (s.skipIf (decide (s.getV x = s.getV y)))

/-- `9XY0` (R113). -/
def execSneReg (x y : Reg) (s : State) : Out := .next (s.skipIf (decide (s.getV x ≠ s.getV y)))

end Sys2Proof.Machine
end

