-- ==== Sys2Proof/Machine/Cycle.lean ====
section
/-! DEFINITION. The instruction cycle (30_encoding.md R71) and the environment's events (10_state.md R30 to R35). -/

namespace Sys2Proof.Machine

/-- Decode and dispatch of a fetched word: the instruction runs, or UnrecognizedOpcode is raised with the fetch address
(30_encoding.md R71, R78). -/
def dispatchWord (op : Word) (s : State) : Out :=
  match decodeWord op with
  | .ok i => exec i s
  | .error _ => s.raise (.unrecognizedOpcode (s.pc - 2) op)

/-- Fetch, decode, dispatch, execute (30_encoding.md R71). -/
def fetchAndRun (s : State) : Out :=
  match s.fetch with
  | .ok (op, s') => dispatchWord op s'
  | .error e => s.raise e

/-- `InstrStep(keys, rnd)` (30_encoding.md R71): nothing at all while halted. -/
def instrStep (keys : Word) (rnd : Byte) (s : State) : Out :=
  if s.halted.isSome then .next s else fetchAndRun (s.latch keys rnd)

/-- An instruction step whose inputs the environment has not supplied: they are free (log entries 9, 10). -/
def freeInstrStep (s : State) : Out :=
  instrStep (Config.freeKeys s.freeDraws) (Config.freeRandom s.freeDraws) s.countDraw

/-- `Tick` of the instruction Timer, and the one instruction step it gates (60_exceptions.md R213, R214, R215). -/
def tickInstrAndRun (delta : Nat) (keys : Word) (rnd : Byte) (s : State) : Out :=
  if s.instrTimerFires delta then instrStep keys rnd (s.tickInstr delta) else .next (s.tickInstr delta)

/-- The two ticks of one driver iteration in the order TICK_ORDER gives (60_exceptions.md R214; log entry 12). -/
def driverTicks (c : Config) (delta : Nat) (keys : Word) (rnd : Byte) : List Event :=
  match c.tickOrder with
  | .instrFirst => [.tickInstrTimer delta keys rnd, .tickDelayTimer delta]
  | .delayFirst => [.tickDelayTimer delta, .tickInstrTimer delta keys rnd]

/-- One event of the environment. After `stop` no tick is delivered (10_state.md R35; log entry 28). -/
def handleEvent (e : Event) (s : State) : Out :=
  match e with
  | .instrTick keys rnd => if s.stopped then .next s else instrStep keys rnd s
  | .delayTick => .next (if s.stopped then s else s.delayStep)
  | .tickInstrTimer delta keys rnd => if s.stopped then .next s else tickInstrAndRun delta keys rnd s
  | .tickDelayTimer delta => .next (if s.stopped then s else s.tickDelay delta)
  | .driver delta keys rnd => .next (if s.stopped then s else s.setEvents (driverTicks s.cfg delta keys rnd ++ s.events))
  | .dispRead => .next s.displayWasRead
  | .stop => .next s.setStopped
  | .reset font prog => s.construct font prog

/-- A step with no event pending: an instruction tick with free inputs, unless the host has stopped (log entry 11) or the
engine is halted, when nothing changes (30_encoding.md R71). -/
def idleStep (s : State) : Out := if s.stopped || s.halted.isSome then .next s else freeInstrStep s

end Sys2Proof.Machine
end

