-- ==== Sys2Proof/Machine/Step.lean ====
section
/-! DEFINITION. The step: the next event of the environment, or an instruction tick when none is pending. -/

namespace Sys2Proof.Machine

/-- One step of the machine (30_encoding.md R71; 60_exceptions.md R214). -/
def step (s : State) : Host.Outcome State Fault Refusal :=
  match s.events with
  | [] => idleStep s
  | e :: rest => handleEvent e (s.setEvents rest)

/-- The address `withFetchWord` stores at: PC, or 0 where PC is out of fetch bounds. -/
def State.fetchSlot (s : State) : Addr := if s.fetchInBounds then s.pc else 0

/-- `s` with a 16-bit word stored where the next step fetches, high byte first, and with what makes the very next step
that fetch: an instruction tick at the front of the events (with the inputs `s` holds), no halt, no stop, and a PC in
bounds (log entry 26). -/
def State.withFetchWord (s : State) (nbits w : Nat) : State :=
  let word : Word := BitVec.ofNat 16 (w % 2 ^ nbits)
  let at0 : State := { s with
    pc := s.fetchSlot, halted := none, stopped := false, events := .instrTick s.keys s.rnd :: s.events }
  at0.memWriteAll s.fetchSlot.toNat [highByte word, lowByte word]

end Sys2Proof.Machine
end

