-- ==== Sys2Proof/WellFormed.lean ====
section
/-! DEFINITION. Well-formedness: the constraints of 00_scope.md R5 on a configuration, and the operand checks of the
instructions (30_encoding.md R75: there is none left to check). -/

namespace Sys2Proof

/-- The column "constraint" of the parameter table of 00_scope.md R5, and that a Timer's period is positive, as
1/frequency is (60_exceptions.md R211). -/
def Config.legal (c : Config) : Bool :=
  decide (2 ≤ c.memSize) && decide (c.memSize ≤ 65536) && decide (1 ≤ c.dispW) && decide (1 ≤ c.dispH) &&
  decide (1 ≤ c.dtFreq) && decide (c.dtFreq ≤ 255) && decide (1 ≤ c.iclkFreq) &&
  decide (1 ≤ c.iclkPeriod) && decide (1 ≤ c.dclkPeriod)

/-- Operand checks, family by family. Every value of every operand field is legal (10_state.md R10: every 4-bit
index names a register; 30_encoding.md R75: N is 0..15, NN is 0..255, NNN is 0..4095), and the operand types of
`Instr` hold exactly those values, so no term is ill-formed. -/
def Instr.wellFormed (i : Instr) : Bool :=
  match i with
  | .cls | .ret => true
  | .jp _ | .call _ | .ldI _ | .jpV0 _ => true
  | .seImm _ _ | .sneImm _ _ | .ldImm _ _ | .addImm _ _ | .rnd _ _ => true
  | .seReg _ _ | .sneReg _ _ | .ldReg _ _ | .orReg _ _ | .andReg _ _ | .xorReg _ _ => true
  | .addReg _ _ | .sub _ _ | .shr _ _ | .subn _ _ | .shl _ _ => true
  | .drw _ _ _ => true
  | .skp _ | .sknp _ | .ldVxDt _ | .ldVxK _ | .ldDtVx _ | .ldStVx _ => true
  | .addI _ | .ldF _ | .ldB _ | .ldMemVx _ | .ldVxMem _ => true

end Sys2Proof
end

