-- ==== Sys2Proof/Safety.lean ====
section
/-! DEFINITION. What a state of a run satisfies, and what counts as a safe run. -/

namespace Sys2Proof.Machine

/-- The invariant every step keeps: the configuration is legal (00_scope.md R5), memory is in canonical form inside
MEM_SIZE (10_state.md R27), the display is a DISP_W x DISP_H grid (R23), and after a tick call each Timer's accumulated
delta is below its period and the instruction Timer's value is within its frequency (60_exceptions.md R211). -/
structure State.Inv (s : State) : Prop where
  cfgLegal : s.cfg.legal = true
  memWf : Memory.wf s.cfg.memSize s.mem
  gridWf : Grid.wf s.cfg.dispW s.cfg.dispH s.px
  iclkAccBelow : s.iclk.acc < s.cfg.iclkPeriod
  iclkValueBound : s.iclk.value ≤ s.cfg.iclkFreq
  dtAccBelow : s.dtAcc < s.cfg.dclkPeriod

/-- No fault has been recorded: errlog is empty and the engine is not halted (60_exceptions.md R201, R202; the spec's
decision D6: a claim about a program takes this as part of its conclusion). -/
def State.noFaultRecorded (s : State) : Bool := s.errlog.isEmpty && s.halted.isNone

/-- The next thing to happen is a reset: its event is at the front of the environment's events. -/
def State.resetNext (s : State) : Bool :=
  match s.events with
  | .reset _ _ :: _ => true
  | _ => false

end Sys2Proof.Machine
end

