-- ==== Sys2Proof/Certificates/Slice0/Obligations.lean ====
section
/-! DEFINITION. The statements for the provers, from the numbered rules of spec/, and the vocabulary they are written in. -/

open Sys2Proof Sys2Proof.Machine

/-! ## Vocabulary: frames -/

/-- The parts of the engine's state an instruction can touch (10_state.md R29). -/
inductive Sys2Proof.Part where
  | regs
  | index
  | pc
  | stack
  | memory
  | display
  | dt
  | st
  deriving DecidableEq, Repr

/-- A part of the state reads in `t` as it does in `s`: every register, every byte of memory through MemRead, every pixel
and disp_changed. -/
def Sys2Proof.Unchanged (p : Part) (s t : State) : Prop :=
  match p with
  | .regs => ∀ r, t.getV r = s.getV r
  | .index => t.i = s.i
  | .pc => t.pc = s.pc
  | .stack => t.stack = s.stack
  | .memory => ∀ a, t.memRead a = s.memRead a
  | .display => (∀ x y, t.px.pixel x y = s.px.pixel x y) ∧ t.dispChanged = s.dispChanged
  | .dt => t.dt = s.dt
  | .st => t.st = s.st

/-- What no instruction may touch: the configuration, halted, errlog, the Timer dividers and the environment's inputs. -/
def Sys2Proof.SurroundingsUnchanged (s t : State) : Prop :=
  t.cfg = s.cfg ∧ t.halted = s.halted ∧ t.errlog = s.errlog ∧ t.iclk = s.iclk ∧ t.dtAcc = s.dtAcc ∧
  t.keys = s.keys ∧ t.rnd = s.rnd ∧ t.events = s.events ∧ t.stopped = s.stopped ∧ t.freeDraws = s.freeDraws

/-- The frame: nothing changes but the listed parts. -/
def Sys2Proof.OnlyParts (allowed : List Part) (s t : State) : Prop :=
  SurroundingsUnchanged s t ∧ ∀ p, p ∉ allowed → Unchanged p s t

/-- Every register but those of a list reads as before. -/
def Sys2Proof.RegsExcept (written : List Reg) (s t : State) : Prop := ∀ r, r ∉ written → t.getV r = s.getV r

/-- Every byte outside the `n` bytes at `base` reads as before. -/
def Sys2Proof.BytesExcept (base n : Nat) (s t : State) : Prop :=
  ∀ a, ¬ (base ≤ a ∧ a < base + n) → t.memRead a = s.memRead a

/-- A condition as the 0 or 1 a flag holds. -/
def Sys2Proof.FlagIs (f : Byte) (p : Prop) : Prop := (p → f = 1) ∧ (¬ p → f = 0)

/-- The sprite of a DXYN in state `s` has a set bit at column `c`, row `r` of the display: the start is VX mod DISP_W,
VY mod DISP_H, the body is clipped, and bit 7 of a row is leftmost (45_draw.md R160, R161). -/
def Sys2Proof.SpriteAt (s : State) (x y : Reg) (n : Nibble) (c r : Nat) : Prop :=
  c < s.cfg.dispW ∧ r < s.cfg.dispH ∧
  (s.getV x).toNat % s.cfg.dispW ≤ c ∧ c < (s.getV x).toNat % s.cfg.dispW + 8 ∧
  (s.getV y).toNat % s.cfg.dispH ≤ r ∧ r < (s.getV y).toNat % s.cfg.dispH + n.toNat ∧
  (s.memRead (s.i.toNat + (r - (s.getV y).toNat % s.cfg.dispH))).getLsbD (7 - (c - (s.getV x).toNat % s.cfg.dispW)) = true

/-- The parts of the state an instruction writes, from the tables and rules of 10_state.md R12, R15, R16, R19, R21, R22, R23
and 20_memory.md R40. The compatibility flags decide for FX1E, FX55 and FX65; FX0A writes PC or VX. -/
def Sys2Proof.partsWritten (c : Config) (i : Instr) : List Part :=
  match i with
  | .cls => [.display]
  | .ret | .call _ => [.pc, .stack]
  | .jp _ | .jpV0 _ => [.pc]
  | .seImm _ _ | .sneImm _ _ | .seReg _ _ | .sneReg _ _ | .skp _ | .sknp _ => [.pc]
  | .ldImm _ _ | .addImm _ _ | .ldReg _ _ | .orReg _ _ | .andReg _ _ | .xorReg _ _ => [.regs]
  | .addReg _ _ | .sub _ _ | .shr _ _ | .subn _ _ | .shl _ _ => [.regs]
  | .rnd _ _ | .ldVxDt _ => [.regs]
  | .drw _ _ _ => [.regs, .display]
  | .ldVxK _ => [.regs, .pc]
  | .ldDtVx _ => [.dt]
  | .ldStVx _ => [.st]
  | .ldI _ | .ldF _ => [.index]
  | .addI _ => if c.qIndexOvfFlag then [.index, .regs] else [.index]
  | .ldB _ => [.memory]
  | .ldMemVx _ => if c.qMemIncI then [.memory, .index] else [.memory]
  | .ldVxMem _ => if c.qMemIncI then [.regs, .index] else [.regs]

/-- The registers an instruction writes: the column "writes" of 10_state.md R12. -/
def Sys2Proof.regsWritten (c : Config) (i : Instr) : List Reg :=
  match i with
  | .cls | .ret | .jp _ | .call _ | .ldI _ | .jpV0 _ => []
  | .seImm _ _ | .sneImm _ _ | .seReg _ _ | .sneReg _ _ | .skp _ | .sknp _ => []
  | .ldImm x _ | .addImm x _ | .ldReg x _ | .orReg x _ | .andReg x _ | .xorReg x _ | .rnd x _ => [x]
  | .addReg x _ | .sub x _ | .shr x _ | .subn x _ | .shl x _ => [x, vF]
  | .drw _ _ _ => [vF]
  | .ldVxDt x | .ldVxK x => [x]
  | .ldDtVx _ | .ldStVx _ | .ldF _ | .ldB _ | .ldMemVx _ => []
  | .addI _ => if c.qIndexOvfFlag then [vF] else []
  | .ldVxMem x => (List.finRange 16).filter (· ≤ x)

/-- The flag writers (10_state.md R14). -/
def Sys2Proof.writesFlag (c : Config) (i : Instr) : Bool :=
  match i with
  | .addReg _ _ | .sub _ _ | .shr _ _ | .subn _ _ | .shl _ _ | .drw _ _ _ => true
  | .addI _ => c.qIndexOvfFlag
  | _ => false

/-- An outcome with its next state changed by a function. -/
def Sys2Proof.mapNext (f : State → State) (o : Out) : Out :=
  match o with
  | .next s => .next (f s)
  | .fault r => .fault r
  | .refused r => .refused r

/-- An instruction tick comes next, with its inputs: from the head of the events, or with free inputs when none is
pending; `s'` is the state the step starts from, inputs latched. -/
def Sys2Proof.TickComes (s s' : State) : Prop :=
  s.stopped = false ∧ s.halted = none ∧
  ((∃ k b rest, s.events = .instrTick k b :: rest ∧ s' = { s with events := rest, keys := k, rnd := b }) ∨
   (s.events = [] ∧ s' = { s with
      keys := Config.freeKeys s.freeDraws, rnd := Config.freeRandom s.freeDraws, freeDraws := s.freeDraws + 1 }))

/-! ## Encoding -/

/-- Words written out from the bit patterns of the opcode table. The numbers of `8XY5`, `FX33`, `FX55`, `FX65` are the
source's; the others the spec marks as general knowledge (log entry 4). -/
def Obligations.OpcodeWordsDecode : Prop :=
  decodeWord 0b0000000011100000 = .ok .cls ∧
  decodeWord 0b0010001100000000 = .ok (.call 0x300) ∧
  decodeWord 0b0011001100101010 = .ok (.seImm 3 0x2A) ∧
  decodeWord 0b0110101001111111 = .ok (.ldImm 10 0x7F) ∧
  decodeWord 0b1000000100100101 = .ok (.sub 1 2) ∧
  decodeWord 0b1010001011110000 = .ok (.ldI 0x2F0) ∧
  decodeWord 0b1101000100100101 = .ok (.drw 1 2 5) ∧
  decodeWord 0b1110001010011110 = .ok (.skp 2) ∧
  decodeWord 0b1111010100110011 = .ok (.ldB 5) ∧
  decodeWord 0b1111001001010101 = .ok (.ldMemVx 2) ∧
  decodeWord 0b1111001001100101 = .ok (.ldVxMem 2)

/-- The six fields of every word, by the masks and shifts of R73, and their overlaps. -/
def Obligations.FieldsAreMasksAndShifts : Prop :=
  ∀ op : Word,
    (fieldF op).toNat = (op &&& 0xF000).toNat >>> 12 ∧ (fieldX op).toNat = (op &&& 0x0F00).toNat >>> 8 ∧
    (fieldY op).toNat = (op &&& 0x00F0).toNat >>> 4 ∧ (fieldN op).toNat = (op &&& 0x000F).toNat ∧
    (fieldNN op).toNat = (op &&& 0x00FF).toNat ∧ (fieldNNN op).toNat = (op &&& 0x0FFF).toNat ∧
    fieldNN op = fieldY op ++ fieldN op ∧ fieldNNN op = fieldX op ++ fieldY op ++ fieldN op

/-- Decoding the encoding of any well-formed instruction gives it back, as a word and as bytes at the front of more. The
strict patterns are the spec's decision D5 and most opcode numbers its general knowledge D7 (log entries 32, 4). -/
def Obligations.DecodeOfEncodeIsTheInstruction : Prop :=
  ∀ i : Instr, i.wellFormed = true →
    decodeWord (encode i) = .ok i ∧ ∀ rest, decodeBytes (encodeBytes i ++ rest) = .ok (i, rest)

/-- Each word has one meaning: a word that decodes is the encoding of what it decodes to. The strict patterns are the
spec's decision D5 and most opcode numbers its general knowledge D7 (log entries 32, 4). -/
def Obligations.EncodeOfDecodeIsTheWord : Prop :=
  ∀ (w : Word) (i : Instr), decodeWord w = .ok i → encode i = w

/-- The decoder follows the masks and matches of the opcode map, whose rows no word shares (R76, R77); a word that
matches no row is rejected under its own name (R78). The strict patterns are the spec's decision D5 and most opcode
numbers its general knowledge D7 (log entries 32, 4). That the rows are disjoint the spec derives (R77, log entry 31).
-/
def Obligations.DecoderFollowsTheOpcodeMap : Prop :=
  ∀ w : Word,
    (∀ i, decodeWord w = .ok i → i.row ∈ opcodeMap ∧ i.row.matchesWord w = true ∧
      ∀ r ∈ opcodeMap, r.matchesWord w = true → r = i.row) ∧
    (∀ e, decodeWord w = .error e → e = .unrecognized w ∧ ∀ r ∈ opcodeMap, r.matchesWord w = false)

/-- The unrecognized words are the six classes of the table of R78 (the spec's decision D5, log entry 32). -/
def Obligations.UnrecognizedWordsAreTheListedClasses : Prop :=
  ∀ w : Word, decodeWord w = .error (.unrecognized w) ↔
    (fieldF w = 0x0 ∧ w ≠ 0x00E0 ∧ w ≠ 0x00EE) ∨
    (fieldF w = 0x5 ∧ fieldN w ≠ 0) ∨
    (fieldF w = 0x8 ∧ fieldN w ∈ ([0x8, 0x9, 0xA, 0xB, 0xC, 0xD, 0xF] : List Nibble)) ∨
    (fieldF w = 0x9 ∧ fieldN w ≠ 0) ∨
    (fieldF w = 0xE ∧ fieldNN w ∉ ([0x9E, 0xA1] : List Byte)) ∨
    (fieldF w = 0xF ∧ fieldNN w ∉ ([0x07, 0x0A, 0x15, 0x18, 0x1E, 0x29, 0x33, 0x55, 0x65] : List Byte))

/-! ## The step -/

/-- A step runs the decoded instruction: when an instruction tick comes, the engine runs, and the word at PC (high byte
first) decodes to `i`, the step is `exec i` in the state with PC advanced by 2. PC + 2 is modulo 2^16, the spec's
decision D2 (log entry 16), and the inputs are sampled once a step, its decisions D23 and D30 (log entries 9, 10). The
event list is the model's own form of the ports (log entry 11). -/
def Obligations.StepRunsTheDecodedInstruction : Prop :=
  ∀ (s s' : State) (i : Instr), TickComes s s' → s.pc.toNat + 1 < s.cfg.memSize →
    decodeWord (s.memRead s.pc.toNat ++ s.memRead (s.pc.toNat + 1)) = .ok i →
    step s = exec i { s' with pc := s.pc + 2 }

/-- A fetched word that matches no instruction: its record, with the fetch address, is appended to errlog, PC is past
the word, and nothing else changes (the record's form is the spec's decision D6, log entry 15). PC + 2 is modulo 2^16,
the spec's decision D2 (log entry 16). -/
def Obligations.UnrecognizedWordIsLoggedAndSkipped : Prop :=
  ∀ (s s' : State) (w : Word), TickComes s s' → s.pc.toNat + 1 < s.cfg.memSize →
    w = s.memRead s.pc.toNat ++ s.memRead (s.pc.toNat + 1) → decodeWord w = .error (.unrecognized w) →
    step s = .next { s' with pc := s.pc + 2, errlog := s.errlog ++ [⟨s.pc, w⟩] }

/-- A fetch with PC or PC + 1 out of memory halts with its PC and changes nothing else (the spec's decision D1, log entry 14). -/
def Obligations.FetchOutOfBoundsHalts : Prop :=
  ∀ s s' : State, TickComes s s' → s.cfg.memSize ≤ s.pc.toNat + 1 →
    step s = .next { s' with halted := some (.fetchOutOfBounds s.pc) }

/-- While halted, until a reset, nothing of the engine changes but DT, the Timers' dividers and the display-changed flag,
whatever the environment does, and DT changes only on a delay tick (the spec's decision D1, log entry 14). -/
def Obligations.HaltedEngineKeepsEverythingButDelayTime : Prop :=
  ∀ (s t : State) (c : HaltCause), s.halted = some c → s.resetNext = false → step s = .next t →
    t.halted = some c ∧ t.v = s.v ∧ t.i = s.i ∧ t.pc = s.pc ∧ t.stack = s.stack ∧ t.mem = s.mem ∧ t.px = s.px ∧
    t.st = s.st ∧ t.errlog = s.errlog ∧
    (t.dt ≠ s.dt → (∃ rest, s.events = .delayTick :: rest) ∨ ∃ d rest, s.events = .tickDelayTimer d :: rest)

/-- Until a reset, errlog is never shortened, and a step appends at most one record. That errlog is an append-only list
is the spec's decision D6 (log entry 15), and at most one record a step rests on R206, which the spec derives (log entry
31). -/
def Obligations.ErrlogOnlyGrowsByOneRecord : Prop :=
  ∀ s t : State, s.resetNext = false → step s = .next t →
    ∃ l, t.errlog = s.errlog ++ l ∧ l.length ≤ 1

/-- No step changes the configuration. That the configuration stands in State is the model's choice (log entry 1). -/
def Obligations.StepKeepsTheConfiguration : Prop :=
  ∀ s t : State, step s = .next t → t.cfg = s.cfg

/-- The only fault of the machine is LoadFailure, and a step raises it exactly on a reset with an unreadable image; no
step refuses. That LoadFailure is a fault of the model is its choice (log entry 29). -/
def Obligations.OnlyAnUnreadableImageFaults : Prop :=
  ∀ s : State,
    (∀ r, step s = .fault r ↔
      r = .loadFailure ∧ ∃ font prog rest, s.events = .reset font prog :: rest ∧ (font = none ∨ prog = none)) ∧
    ∀ r, step s ≠ .refused r

/-- The invariant of Safety.lean holds in the state after reset, for every legal configuration, the canonical one too.
It rests on reset values the spec or the model chose (its decision D15; log entries 2, 5, 7). -/
def Obligations.ResetStateMeetsTheInvariant : Prop :=
  State.reset.Inv ∧ ∀ c : Config, c.legal = true → (State.resetWith c).Inv

/-- Every step keeps the invariant: legal configuration, canonical memory inside MEM_SIZE, a DISP_W x DISP_H grid,
Timers within their bounds. The canonical form of memory and that the periods stand in the configuration are the model's
choices (log entries 6, 13), the bounds of a legal configuration the spec's decisions D14, D18, D24. -/
def Obligations.StepKeepsTheInvariant : Prop :=
  ∀ s t : State, s.Inv → step s = .next t → t.Inv

/-! ## Timers, display port, host port, reset -/

/-- The Timer step: 0 wraps to the frequency, else one less; a delay tick makes it on DT and on nothing else; and from a
count within the frequency, frequency + 1 steps come back to it. -/
def Obligations.DelayStepWrapsFromZeroToFrequency : Prop :=
  (∀ (s : State) (rest : List Event), s.events = .delayTick :: rest → s.stopped = false → s.cfg.dtFreq ≤ 255 →
    ∃ t, step s = .next t ∧
      t.dt.toNat = (if s.dt.toNat = 0 then s.cfg.dtFreq else s.dt.toNat - 1) ∧
      t = { s with dt := t.dt, events := rest }) ∧
  ∀ f v : Nat, v ≤ f → Nat.repeat (timerStep f) (f + 1) v = v

/-- `Tick` on both Timers: the delta accumulates; at a full period the accumulated delta is 0 and exactly one step is made,
however large the delta; the delay Timer's step is on DT, the instruction Timer's gates one instruction step. -/
def Obligations.TickMakesAtMostOneStep : Prop :=
  (∀ (s : State) (d : Nat) (rest : List Event), s.events = .tickDelayTimer d :: rest → s.stopped = false →
    s.cfg.dtFreq ≤ 255 →
    ∃ t, step s = .next t ∧ t = { s with dt := t.dt, dtAcc := t.dtAcc, events := rest } ∧
      (s.cfg.dclkPeriod ≤ s.dtAcc + d →
        t.dtAcc = 0 ∧ t.dt.toNat = if s.dt.toNat = 0 then s.cfg.dtFreq else s.dt.toNat - 1) ∧
      (s.dtAcc + d < s.cfg.dclkPeriod → t.dtAcc = s.dtAcc + d ∧ t.dt = s.dt)) ∧
  ∀ (s : State) (d : Nat) (k : Word) (b : Byte) (rest : List Event),
    s.events = .tickInstrTimer d k b :: rest → s.stopped = false →
    (s.cfg.iclkPeriod ≤ s.iclk.acc + d →
      step s = instrStep k b { s with
        iclk := ⟨if s.iclk.value = 0 then s.cfg.iclkFreq else s.iclk.value - 1, 0⟩, events := rest }) ∧
    (s.iclk.acc + d < s.cfg.iclkPeriod →
      step s = .next { s with iclk := ⟨s.iclk.value, s.iclk.acc + d⟩, events := rest })

/-- A driver iteration feeds the same delta to both Timers, in the order TICK_ORDER gives (OPEN in the spec, its decision
D20; log entry 12). -/
def Obligations.DriverFeedsBothTimersTheSameDelta : Prop :=
  ∀ (s : State) (d : Nat) (k : Word) (b : Byte) (rest : List Event),
    s.events = .driver d k b :: rest → s.stopped = false →
    step s = .next { s with events :=
      (if s.cfg.tickOrder = .delayFirst then [Event.tickDelayTimer d, Event.tickInstrTimer d k b]
       else [Event.tickInstrTimer d k b, Event.tickDelayTimer d]) ++ rest }

/-- A display read returns the whole of px and disp_changed, then clears disp_changed and changes nothing else (that the read
clears it is the spec's decision D21, log entry 24). -/
def Obligations.DisplayReadClearsTheChangedFlag : Prop :=
  ∀ (s : State) (rest : List Event), s.events = .dispRead :: rest →
    s.displayPort = (s.px, s.dispChanged) ∧ step s = .next { s with dispChanged := false, events := rest }

/-- After the host's stop no tick is delivered: ticks and driver iterations change nothing, with no event pending nothing
changes, and the stop itself changes no state of the engine (how a tick after stop is consumed is the model's choice, log
entry 28). -/
def Obligations.StopEndsTheDeliveryOfTicks : Prop :=
  (∀ (s : State) (rest : List Event), s.events = .stop :: rest →
    step s = .next { s with stopped := true, events := rest }) ∧
  (∀ s : State, s.stopped = true → s.events = [] → step s = .next s) ∧
  ∀ (s : State) (e : Event) (rest : List Event), s.stopped = true → s.events = e :: rest →
    (e ≠ .dispRead ∧ e ≠ .stop ∧ ∀ f p, e ≠ .reset f p) → step s = .next { s with events := rest }

/-- Construction and reset leave the values of R37 and the two images in memory, the program's bytes over the font's,
bytes out of bounds dropped (the spec's decisions D15, D16, D17, D27; log entries 5, 6, 26, 27; the instruction Timer's
value is the model's choice, log entry 7, and nothing is said of it here). -/
def Obligations.ResetLoadsImagesIntoTheResetState : Prop :=
  ∀ (s : State) (font prog : List Byte) (rest : List Event), s.events = .reset (some font) (some prog) :: rest →
    ∃ t, step s = .next t ∧
      (∀ r, t.getV r = 0) ∧ t.i = 0 ∧ t.pc = s.cfg.progBase ∧ t.stack = [] ∧ (∀ x y, t.px.pixel x y = false) ∧
      t.dt = s.cfg.dtReset ∧ t.st = 0 ∧ t.dispChanged = false ∧ t.halted = none ∧ t.errlog = [] ∧
      t.iclk.acc = 0 ∧ t.dtAcc = 0 ∧ t.cfg = s.cfg ∧
      ∀ a, t.memRead a =
        if a < s.cfg.memSize then
          if s.cfg.progBase.toNat ≤ a ∧ a < s.cfg.progBase.toNat + prog.length then
            prog.getD (a - s.cfg.progBase.toNat) 0
          else if s.cfg.fontBase.toNat ≤ a ∧ a < s.cfg.fontBase.toNat + font.length then
            font.getD (a - s.cfg.fontBase.toNat) 0
          else 0
        else 0

/-! ## Memory and stack -/

/-- At and above MEM_SIZE a read gives 0 and a write of any bytes leaves all of memory as it is. -/
def Obligations.OutOfBoundsAccessIsHarmless : Prop :=
  ∀ (s : State) (a : Nat), s.cfg.memSize ≤ a →
    s.memRead a = 0 ∧ ∀ (bs : List Byte) (b : Nat), (s.memWriteAll a bs).memRead b = s.memRead b

/-- Push then pop returns the pushed value and restores the stack; pop on an empty stack returns 0 and leaves it empty.
That a push never fails rests on the unbounded stack, the spec's decision D19 (log entry 30). -/
def Obligations.PopUndoesPushAndIsZeroOnEmpty : Prop :=
  (∀ (s : State) (a : Addr), (s.push a).top = a ∧ (s.push a).dropTop = s ∧
    (s.push a).stack.length = s.stack.length + 1) ∧
  ∀ s : State, s.stack = [] → s.top = 0 ∧ s.dropTop = s

/-- A store is seen by the very next fetch: where FX55 stores two registers at PC and PC + 1, the word fetched there is
those registers, the lower address the high byte (R44, R51; addresses are the unbounded sums of D3, log entry 17). That
the next fetch sees the store the spec derives (R44, R51, log entry 31); PC + 2 is modulo 2^16, its decision D2 (log
entry 16). -/
def Obligations.StoredRegistersAreFetchedNext : Prop :=
  ∀ (s : State) (x k k1 : Reg), s.Inv → k1.val = k.val + 1 → k1 ≤ x →
    s.pc.toNat = s.i.toNat + k.val → s.pc.toNat + 1 < s.cfg.memSize →
    ∃ t, exec (.ldMemVx x) s = .next t ∧
      t.fetch = .ok (s.getV k ++ s.getV k1, { t with pc := s.pc + 2 })

/-! ## Instructions: result, completion and frame

Each runs after the fetch: the PC of `s` is the address of the next instruction (00_scope.md R8). -/

/-- `00E0`: every pixel off, disp_changed set (the spec's decision D21, log entry 24), nothing else. -/
def Obligations.ClsTurnsEveryPixelOff : Prop :=
  ∀ s : State, ∃ t, exec .cls s = .next t ∧ (∀ x y, t.px.pixel x y = false) ∧ t.dispChanged = true ∧
    OnlyParts [.display] s t

/-- `00EE`: PC is the popped top, or 0 with the stack unchanged when it is empty. That the popped value is taken as it
is, without a check, the spec derives (R101, log entry 31). -/
def Obligations.RetPopsTheReturnAddress : Prop :=
  ∀ s : State, ∃ t, exec .ret s = .next t ∧ OnlyParts [.pc, .stack] s t ∧
    (s.stack = [] → t.pc = 0 ∧ t.stack = []) ∧ ∀ l a, s.stack = l ++ [a] → t.pc = a ∧ t.stack = l

/-- `1NNN`: PC is NNN zero-extended. -/
def Obligations.JpSetsThePC : Prop :=
  ∀ (s : State) (nnn : Imm12), ∃ t, exec (.jp nnn) s = .next t ∧ t.pc.toNat = nnn.toNat ∧ OnlyParts [.pc] s t

/-- `2NNN`: the PC, which is past the CALL, is pushed and PC is NNN; a RET with that stack comes back to it. That the
pushed value is the address after the CALL the spec derives (R103, log entry 31), and that a push never fails is its
decision D19 (log entry 30). -/
def Obligations.CallPushesThePCAndRetComesBack : Prop :=
  ∀ (s : State) (nnn : Imm12), ∃ t, exec (.call nnn) s = .next t ∧ t.stack = s.stack ++ [s.pc] ∧
    t.pc.toNat = nnn.toNat ∧ OnlyParts [.pc, .stack] s t ∧
    ∀ u : State, u.stack = t.stack → ∃ v, exec .ret u = .next v ∧ v.pc = s.pc ∧ v.stack = s.stack

/-- The four compare skips: PC a further 2 exactly when the condition holds, modulo 2^16 (the spec's decision D2, log
entry 16), and nothing else. Which number skips on which condition the spec takes from general knowledge (D7, log entry
4). -/
def Obligations.CompareSkipsAdvanceOnlyThePC : Prop :=
  ∀ (s : State) (x y : Reg) (nn : Byte),
    (∃ t, exec (.seImm x nn) s = .next t ∧ OnlyParts [.pc] s t ∧
      t.pc = if s.getV x = nn then s.pc + 2 else s.pc) ∧
    (∃ t, exec (.sneImm x nn) s = .next t ∧ OnlyParts [.pc] s t ∧
      t.pc = if s.getV x = nn then s.pc else s.pc + 2) ∧
    (∃ t, exec (.seReg x y) s = .next t ∧ OnlyParts [.pc] s t ∧
      t.pc = if s.getV x = s.getV y then s.pc + 2 else s.pc) ∧
    (∃ t, exec (.sneReg x y) s = .next t ∧ OnlyParts [.pc] s t ∧
      t.pc = if s.getV x = s.getV y then s.pc else s.pc + 2)

/-- `6XNN`: VX is NN; VF too when X is 15; no other register and nothing else changes. -/
def Obligations.LdImmSetsTheRegister : Prop :=
  ∀ (s : State) (x : Reg) (nn : Byte), ∃ t, exec (.ldImm x nn) s = .next t ∧ t.getV x = nn ∧
    RegsExcept [x] s t ∧ OnlyParts [.regs] s t

/-- `7XNN`: VX is the sum modulo 256; VF is not touched unless X is 15, and then it is the sum. -/
def Obligations.AddImmWrapsWithoutFlag : Prop :=
  ∀ (s : State) (x : Reg) (nn : Byte), ∃ t, exec (.addImm x nn) s = .next t ∧
    (t.getV x).toNat = ((s.getV x).toNat + nn.toNat) % 256 ∧ RegsExcept [x] s t ∧ OnlyParts [.regs] s t

/-- `8XY0` to `8XY3`: copy, OR, AND, XOR bit by bit; no flag. -/
def Obligations.CopyAndLogicWriteOnlyTheDestination : Prop :=
  ∀ (s : State) (x y : Reg),
    (∃ t, exec (.ldReg x y) s = .next t ∧ t.getV x = s.getV y ∧ RegsExcept [x] s t ∧ OnlyParts [.regs] s t) ∧
    (∃ t, exec (.orReg x y) s = .next t ∧ RegsExcept [x] s t ∧ OnlyParts [.regs] s t ∧
      ∀ k, (t.getV x).getLsbD k = ((s.getV x).getLsbD k || (s.getV y).getLsbD k)) ∧
    (∃ t, exec (.andReg x y) s = .next t ∧ RegsExcept [x] s t ∧ OnlyParts [.regs] s t ∧
      ∀ k, (t.getV x).getLsbD k = ((s.getV x).getLsbD k && (s.getV y).getLsbD k)) ∧
    (∃ t, exec (.xorReg x y) s = .next t ∧ RegsExcept [x] s t ∧ OnlyParts [.regs] s t ∧
      ∀ k, (t.getV x).getLsbD k = ((s.getV x).getLsbD k ^^ (s.getV y).getLsbD k))

/-- `8XY4`: VF is the carry, written last; VX is the sum modulo 256 unless it is VF. -/
def Obligations.AddRegSetsCarryLast : Prop :=
  ∀ (s : State) (x y : Reg), ∃ t, exec (.addReg x y) s = .next t ∧
    FlagIs (t.getV vF) (255 < (s.getV x).toNat + (s.getV y).toNat) ∧
    (x ≠ vF → (t.getV x).toNat = ((s.getV x).toNat + (s.getV y).toNat) % 256) ∧
    RegsExcept [x, vF] s t ∧ OnlyParts [.regs] s t

/-- `8XY5`, the word `1000 xxxx yyyy 0101`: VF is 1 when VX - VY does not underflow, else 0, written last; VX is the
difference modulo 256 unless it is VF. -/
def Obligations.SubSetsNoBorrowLast : Prop :=
  ∀ (s : State) (x y : Reg), decodeWord (packXYN 0b1000 x y 0b0101) = .ok (.sub x y) ∧
    ∃ t, exec (.sub x y) s = .next t ∧
    FlagIs (t.getV vF) ((s.getV y).toNat ≤ (s.getV x).toNat) ∧
    (x ≠ vF → (t.getV x).toNat = ((s.getV x).toNat + 256 - (s.getV y).toNat) % 256) ∧
    RegsExcept [x, vF] s t ∧ OnlyParts [.regs] s t

/-- `8XY7`: as SUB with the operands exchanged (the spec derives the polarity from R135, log entry 31). -/
def Obligations.SubnSetsNoBorrowLast : Prop :=
  ∀ (s : State) (x y : Reg), ∃ t, exec (.subn x y) s = .next t ∧
    FlagIs (t.getV vF) ((s.getV x).toNat ≤ (s.getV y).toNat) ∧
    (x ≠ vF → (t.getV x).toNat = ((s.getV y).toNat + 256 - (s.getV x).toNat) % 256) ∧
    RegsExcept [x, vF] s t ∧ OnlyParts [.regs] s t

/-- `8XY6`: half of the source, VF the bit moved out of the source's original value, last; the source is VY with
Q_SHIFT_ASSIGN, else VX (that the fill is zero the spec derives, log entry 31). -/
def Obligations.ShrHalvesAndFlagsTheLowBit : Prop :=
  ∀ (s : State) (x y : Reg), ∃ t, exec (.shr x y) s = .next t ∧
    FlagIs (t.getV vF) ((s.getV (if s.cfg.qShiftAssign then y else x)).toNat % 2 = 1) ∧
    (x ≠ vF → (t.getV x).toNat = (s.getV (if s.cfg.qShiftAssign then y else x)).toNat / 2) ∧
    RegsExcept [x, vF] s t ∧ OnlyParts [.regs] s t

/-- `8XYE`: twice the source modulo 256, VF bit 7 of the source's original value, last. -/
def Obligations.ShlDoublesAndFlagsTheHighBit : Prop :=
  ∀ (s : State) (x y : Reg), ∃ t, exec (.shl x y) s = .next t ∧
    FlagIs (t.getV vF) (128 ≤ (s.getV (if s.cfg.qShiftAssign then y else x)).toNat) ∧
    (x ≠ vF → (t.getV x).toNat = (s.getV (if s.cfg.qShiftAssign then y else x)).toNat * 2 % 256) ∧
    RegsExcept [x, vF] s t ∧ OnlyParts [.regs] s t

/-- `ANNN`: I is NNN zero-extended. -/
def Obligations.LdISetsTheIndex : Prop :=
  ∀ (s : State) (nnn : Imm12), ∃ t, exec (.ldI nnn) s = .next t ∧ t.i.toNat = nnn.toNat ∧ OnlyParts [.index] s t

/-- `FX1E`: I is the sum modulo 2^16; VF is 1 when the sum exceeds 0x0FFF and 0 otherwise with Q_INDEX_OVF_FLAG (the spec's
decision D9, log entry 19), and untouched without it. -/
def Obligations.AddIWrapsAndFlagsWhenEnabled : Prop :=
  ∀ (s : State) (x : Reg), ∃ t, exec (.addI x) s = .next t ∧
    t.i.toNat = (s.i.toNat + (s.getV x).toNat) % 65536 ∧
    (s.cfg.qIndexOvfFlag = true → FlagIs (t.getV vF) (0x0FFF < s.i.toNat + (s.getV x).toNat)) ∧
    RegsExcept (if s.cfg.qIndexOvfFlag then [vF] else []) s t ∧ OnlyParts [.regs, .index] s t

/-- `BNNN`: PC is NNN plus V0, or plus VX with X the top nibble of NNN when Q_JUMP_VX is set; the sum is not masked (the
spec derives that, log entry 31). -/
def Obligations.JpV0AddsTheOffsetRegister : Prop :=
  ∀ (s : State) (nnn : Imm12) (x : Reg), x.val = nnn.toNat / 256 →
    ∃ t, exec (.jpV0 nnn) s = .next t ∧
      t.pc.toNat = nnn.toNat + (s.getV (if s.cfg.qJumpVx then x else 0)).toNat ∧ OnlyParts [.pc] s t

/-- `CXNN`: VX is the step's random byte masked by NN, whatever that byte is (the spec's decision D23, log entry 10). -/
def Obligations.RndMasksTheRandomByte : Prop :=
  ∀ (s : State) (x : Reg) (nn : Byte), ∃ t, exec (.rnd x nn) s = .next t ∧
    (∀ k, (t.getV x).getLsbD k = (s.rnd.getLsbD k && nn.getLsbD k)) ∧ RegsExcept [x] s t ∧ OnlyParts [.regs] s t

/-- `DXYN`: exactly the pixels under the sprite's set bits are inverted, start wrapped and body clipped; VF is 1 when
one of them was on, else 0, last; disp_changed is set (the spec's decisions D8 and D21, log entries 24, 25). Start
wrapped and body clipped is the spec's resolution C1 (log entry 25), and the sprite's addresses are the unbounded sums
of its decision D3 (log entry 17). -/
def Obligations.DrwInvertsThePixelsUnderTheSprite : Prop :=
  ∀ (s : State) (x y : Reg) (n : Nibble), Grid.wf s.cfg.dispW s.cfg.dispH s.px →
    ∃ t, exec (.drw x y n) s = .next t ∧
      (∀ c r, (SpriteAt s x y n c r → t.px.pixel c r = !s.px.pixel c r) ∧
        (¬ SpriteAt s x y n c r → t.px.pixel c r = s.px.pixel c r)) ∧
      FlagIs (t.getV vF) (∃ c r, SpriteAt s x y n c r ∧ s.px.pixel c r = true) ∧
      t.dispChanged = true ∧ Grid.wf t.cfg.dispW t.cfg.dispH t.px ∧
      RegsExcept [vF] s t ∧ OnlyParts [.regs, .display] s t

/-- `Draw(x, y, rows)`: the start is x mod DISP_W, y mod DISP_H, the body is clipped at the right and bottom edges; the
pixels under set bits (bit 7 leftmost) are inverted and no other changes; collision exactly when one of them was on. That
the start wraps and the body clips is the spec's resolution C1 of a conflict in its source (log entry 25). -/
def Obligations.DrawWrapsTheStartAndClipsTheBody : Prop :=
  ∀ (w h x y : Nat) (rows : List Byte) (g : Grid), Grid.wf w h g →
    let hit := fun c r : Nat => c < w ∧ r < h ∧ x % w ≤ c ∧ c < x % w + 8 ∧ y % h ≤ r ∧ r < y % h + rows.length ∧
      (rows.getD (r - y % h) 0).getLsbD (7 - (c - x % w)) = true
    (∀ c r, (hit c r → (drawSprite w h x y rows g).1.pixel c r = !g.pixel c r) ∧
      (¬ hit c r → (drawSprite w h x y rows g).1.pixel c r = g.pixel c r)) ∧
    ((drawSprite w h x y rows g).2 = true ↔ ∃ c r, hit c r ∧ g.pixel c r = true)

/-- Drawing the same sprite at the same place twice restores every pixel; from a clear display the first draw reports no
collision, and the second reports one exactly when a set bit falls inside the display (R162 items 1 and 3, which the
spec derives from R160). Start wrapped and body clipped is the spec's resolution C1 (log entry 25). -/
def Obligations.DrawingTwiceRestoresTheDisplay : Prop :=
  ∀ (w h x y : Nat) (rows : List Byte) (g : Grid), Grid.wf w h g →
    (∀ c r, (drawSprite w h x y rows (drawSprite w h x y rows g).1).1.pixel c r = g.pixel c r) ∧
    ((∀ c r, g.pixel c r = false) →
      (drawSprite w h x y rows g).2 = false ∧
      ((drawSprite w h x y rows (drawSprite w h x y rows g).1).2 = true ↔
        ∃ i j, i < rows.length ∧ j < 8 ∧ (rows.getD i 0).getLsbD (7 - j) = true ∧ x % w + j < w ∧ y % h + i < h))

/-- `EX9E`, `EXA1`: skip on the key VX names being down, not down; a number above 15 names no key (the spec's decision
D11, log entry 21), and PC wraps (D2, log entry 16). That EXA1 is the complement of EX9E the spec takes from general
knowledge (D7, log entry 4), and one snapshot a step is its decision D30 (log entry 9). -/
def Obligations.KeySkipsReadTheSnapshot : Prop :=
  ∀ (s : State) (x : Reg),
    (∃ t, exec (.skp x) s = .next t ∧ OnlyParts [.pc] s t ∧
      t.pc = if (s.getV x).toNat ≤ 15 ∧ s.keys.getLsbD (s.getV x).toNat = true then s.pc + 2 else s.pc) ∧
    (∃ t, exec (.sknp x) s = .next t ∧ OnlyParts [.pc] s t ∧
      t.pc = if (s.getV x).toNat ≤ 15 ∧ s.keys.getLsbD (s.getV x).toNat = true then s.pc else s.pc + 2)

/-- `FX0A`: with no key down PC goes back to the instruction, modulo 2^16, and nothing else changes; else VX is the least key
down and PC stays (the spec's decisions D10 and D2, log entries 20, 16). -/
def Obligations.KeyWaitRepeatsOrTakesTheLeastKey : Prop :=
  ∀ (s : State) (x : Reg), ∃ t, exec (.ldVxK x) s = .next t ∧
    (s.keys = 0 → t.pc = s.pc - 2 ∧ OnlyParts [.pc] s t) ∧
    (s.keys ≠ 0 → (t.getV x).toNat < 16 ∧ s.keys.getLsbD (t.getV x).toNat = true ∧
      (∀ k, k < (t.getV x).toNat → s.keys.getLsbD k = false) ∧ RegsExcept [x] s t ∧ OnlyParts [.regs] s t)

/-- `FX07` reads DT into VX. -/
def Obligations.ReadDelayTimerCopiesDT : Prop :=
  ∀ (s : State) (x : Reg), ∃ t, exec (.ldVxDt x) s = .next t ∧ t.getV x = s.dt ∧ RegsExcept [x] s t ∧
    OnlyParts [.regs] s t

/-- `FX15` stores VX in DT unclamped and keeps the Timer's accumulated delta (which the spec derives); `FX18` stores VX
in ST (the spec's decision D13, log entry 22). What the spec derives there is R174's (log entry 31), and the 8 bits of
DT are its decision D14 (log entry 23). -/
def Obligations.SetTimersStoreTheRegister : Prop :=
  ∀ (s : State) (x : Reg),
    (∃ t, exec (.ldDtVx x) s = .next t ∧ t.dt = s.getV x ∧ t.dtAcc = s.dtAcc ∧ OnlyParts [.dt] s t) ∧
    (∃ t, exec (.ldStVx x) s = .next t ∧ t.st = s.getV x ∧ OnlyParts [.st] s t)

/-- `FX29`: I is FONT_ADDR(VX): the configured table's entry, or by default FONT_BASE plus five times VX's low nibble
modulo 2^16 (the spec's decision D12, log entry 3). The default formula the spec takes from general knowledge. -/
def Obligations.FontLookupSetsTheIndex : Prop :=
  ∀ (s : State) (x : Reg), ∃ t, exec (.ldF x) s = .next t ∧ OnlyParts [.index] s t ∧
    (s.cfg.fontTable = none →
      t.i.toNat = (s.cfg.fontBase.toNat + 5 * ((s.getV x).toNat % 16)) % 65536) ∧
    ∀ table : Vector Addr 256, s.cfg.fontTable = some table → t.i = table[(s.getV x).toNat]'(s.getV x).isLt

/-- `FX33`: the hundreds, tens and ones of VX at I, I + 1, I + 2, each where it is in bounds; together they give VX
back; I and every other byte stay (addresses are unbounded, the spec's decision D3, log entry 17). That I stays as it is
the spec derives (R181, log entry 31). -/
def Obligations.BcdStoresTheThreeDigits : Prop :=
  ∀ (s : State) (x : Reg), s.Inv → ∃ t, exec (.ldB x) s = .next t ∧
    OnlyParts [.memory] s t ∧ BytesExcept s.i.toNat 3 s t ∧
    (s.i.toNat < s.cfg.memSize → (t.memRead s.i.toNat).toNat = (s.getV x).toNat / 100) ∧
    (s.i.toNat + 1 < s.cfg.memSize → (t.memRead (s.i.toNat + 1)).toNat = (s.getV x).toNat / 10 % 10) ∧
    (s.i.toNat + 2 < s.cfg.memSize → (t.memRead (s.i.toNat + 2)).toNat = (s.getV x).toNat % 10 ∧
      100 * (t.memRead s.i.toNat).toNat + 10 * (t.memRead (s.i.toNat + 1)).toNat + (t.memRead (s.i.toNat + 2)).toNat =
        (s.getV x).toNat)

/-- `FX55`: V0 to VX at I upward, each where it is in bounds, every other byte kept; I advances by X + 1 modulo 2^16 with
Q_MEM_INC_I and stays without it (the spec's decisions D3 and D4, log entries 17, 18). -/
def Obligations.StoreRegistersWritesTheRange : Prop :=
  ∀ (s : State) (x : Reg), s.Inv → ∃ t, exec (.ldMemVx x) s = .next t ∧
    (∀ k : Reg, k ≤ x → s.i.toNat + k.val < s.cfg.memSize → t.memRead (s.i.toNat + k.val) = s.getV k) ∧
    BytesExcept s.i.toNat (x.val + 1) s t ∧
    t.i.toNat = (if s.cfg.qMemIncI then (s.i.toNat + x.val + 1) % 65536 else s.i.toNat) ∧
    OnlyParts [.memory, .index] s t

/-- `FX65`: V0 to VX from I upward, 0 where out of bounds, the other registers kept; I as for `FX55` (the spec's decisions D3
and D4, log entries 17, 18). -/
def Obligations.LoadRegistersReadsTheRange : Prop :=
  ∀ (s : State) (x : Reg), ∃ t, exec (.ldVxMem x) s = .next t ∧
    (∀ k : Reg, k ≤ x → t.getV k = if s.i.toNat + k.val < s.cfg.memSize then s.memRead (s.i.toNat + k.val) else 0) ∧
    (∀ k : Reg, x < k → t.getV k = s.getV k) ∧
    t.i.toNat = (if s.cfg.qMemIncI then (s.i.toNat + x.val + 1) % 65536 else s.i.toNat) ∧
    OnlyParts [.regs, .index] s t

/-! ## Rules of the whole machine -/

/-- Every instruction completes, whatever the state. That no instruction is privileged is the spec's decision D29 (log
entry 35). -/
def Obligations.EveryInstructionCompletes : Prop :=
  ∀ (i : Instr) (s : State), ∃ t, exec i s = .next t

/-- Every instruction touches only the parts of the state the spec's lists give it: display by draw and clear only,
memory by FX33 and FX55 only, the stack by call and return only, I, PC, DT, ST by their writers only. The table of R12
and that FX33 leaves I the spec derives (log entry 31); the flag of FX1E, FX0A going back and ST are its decisions D9,
D10, D13 (log entries 19, 20, 22). -/
def Obligations.InstructionsTouchOnlyTheirParts : Prop :=
  ∀ (i : Instr) (s t : State), exec i s = .next t → OnlyParts (partsWritten s.cfg i) s t

/-- Every instruction writes only the registers of the column "writes" of R12. The table of R12 the spec derives (log
entry 31); that FX0A writes VX only with a key down is its decision D10 (log entry 20). -/
def Obligations.InstructionsWriteOnlyTheirRegisters : Prop :=
  ∀ (i : Instr) (s t : State), exec i s = .next t → RegsExcept (regsWritten s.cfg i) s t

/-- After a flag writer VF is 0 or 1, also when VF is its destination (R13, R14). For FX1E this is the spec's decision
D9 (log entry 19). -/
def Obligations.FlagWritersLeaveZeroOrOne : Prop :=
  ∀ (i : Instr) (s t : State), writesFlag s.cfg i = true → exec i s = .next t → t.getV vF = 0 ∨ t.getV vF = 1

/-- No step reads ST: two states that differ in ST alone step to outcomes that differ in ST at most. That nothing reads
ST is the spec's decision D13 (log entry 22). -/
def Obligations.NoStepReadsTheSoundTimer : Prop :=
  ∀ (s : State) (b : Byte),
    mapNext (fun t => { t with st := 0 }) (step { s with st := b }) = mapNext (fun t => { t with st := 0 }) (step s)

/-- Only EX9E, EXA1 and FX0A read the keys: any other instruction does the same whatever the snapshot is. One snapshot a
step is the spec's decision D30 (log entry 9). -/
def Obligations.OnlyKeyInstructionsReadTheKeys : Prop :=
  ∀ (i : Instr) (s : State) (k : Word), (∀ x, i ≠ .skp x ∧ i ≠ .sknp x ∧ i ≠ .ldVxK x) →
    exec i { s with keys := k } = mapNext (fun t => { t with keys := k }) (exec i s)

/-- Only CXNN reads the random byte. The byte is a free input of the step, the spec's decision D23 (log entry 10). -/
def Obligations.OnlyRndReadsTheRandomByte : Prop :=
  ∀ (i : Instr) (s : State) (b : Byte), (∀ x nn, i ≠ .rnd x nn) →
    exec i { s with rnd := b } = mapNext (fun t => { t with rnd := b }) (exec i s)
end

