-- ==== Sys2Proof/Laws/State.lean ====
section
/-! SUPPORT. One lemma per field per update of State, so that no proof unfolds a record update. -/

namespace Sys2Proof.Machine

/-! ### setV -/

@[simp] theorem State.setV_cfg (s : State) (r : Reg) (b : Byte) : (s.setV r b).cfg = s.cfg := rfl
@[simp] theorem State.setV_v (s : State) (r : Reg) (b : Byte) : (s.setV r b).v = s.v.set r.val b r.isLt := rfl
@[simp] theorem State.setV_i (s : State) (r : Reg) (b : Byte) : (s.setV r b).i = s.i := rfl
@[simp] theorem State.setV_pc (s : State) (r : Reg) (b : Byte) : (s.setV r b).pc = s.pc := rfl
@[simp] theorem State.setV_stack (s : State) (r : Reg) (b : Byte) : (s.setV r b).stack = s.stack := rfl
@[simp] theorem State.setV_mem (s : State) (r : Reg) (b : Byte) : (s.setV r b).mem = s.mem := rfl
@[simp] theorem State.setV_px (s : State) (r : Reg) (b : Byte) : (s.setV r b).px = s.px := rfl
@[simp] theorem State.setV_dt (s : State) (r : Reg) (b : Byte) : (s.setV r b).dt = s.dt := rfl
@[simp] theorem State.setV_st (s : State) (r : Reg) (b : Byte) : (s.setV r b).st = s.st := rfl
@[simp] theorem State.setV_dispChanged (s : State) (r : Reg) (b : Byte) : (s.setV r b).dispChanged = s.dispChanged := rfl
@[simp] theorem State.setV_halted (s : State) (r : Reg) (b : Byte) : (s.setV r b).halted = s.halted := rfl
@[simp] theorem State.setV_errlog (s : State) (r : Reg) (b : Byte) : (s.setV r b).errlog = s.errlog := rfl
@[simp] theorem State.setV_iclk (s : State) (r : Reg) (b : Byte) : (s.setV r b).iclk = s.iclk := rfl
@[simp] theorem State.setV_dtAcc (s : State) (r : Reg) (b : Byte) : (s.setV r b).dtAcc = s.dtAcc := rfl
@[simp] theorem State.setV_keys (s : State) (r : Reg) (b : Byte) : (s.setV r b).keys = s.keys := rfl
@[simp] theorem State.setV_rnd (s : State) (r : Reg) (b : Byte) : (s.setV r b).rnd = s.rnd := rfl
@[simp] theorem State.setV_events (s : State) (r : Reg) (b : Byte) : (s.setV r b).events = s.events := rfl
@[simp] theorem State.setV_stopped (s : State) (r : Reg) (b : Byte) : (s.setV r b).stopped = s.stopped := rfl
@[simp] theorem State.setV_freeDraws (s : State) (r : Reg) (b : Byte) : (s.setV r b).freeDraws = s.freeDraws := rfl

/-! ### setI -/

@[simp] theorem State.setI_cfg (s : State) (a : Addr) : (s.setI a).cfg = s.cfg := rfl
@[simp] theorem State.setI_v (s : State) (a : Addr) : (s.setI a).v = s.v := rfl
@[simp] theorem State.setI_i (s : State) (a : Addr) : (s.setI a).i = a := rfl
@[simp] theorem State.setI_pc (s : State) (a : Addr) : (s.setI a).pc = s.pc := rfl
@[simp] theorem State.setI_stack (s : State) (a : Addr) : (s.setI a).stack = s.stack := rfl
@[simp] theorem State.setI_mem (s : State) (a : Addr) : (s.setI a).mem = s.mem := rfl
@[simp] theorem State.setI_px (s : State) (a : Addr) : (s.setI a).px = s.px := rfl
@[simp] theorem State.setI_dt (s : State) (a : Addr) : (s.setI a).dt = s.dt := rfl
@[simp] theorem State.setI_st (s : State) (a : Addr) : (s.setI a).st = s.st := rfl
@[simp] theorem State.setI_dispChanged (s : State) (a : Addr) : (s.setI a).dispChanged = s.dispChanged := rfl
@[simp] theorem State.setI_halted (s : State) (a : Addr) : (s.setI a).halted = s.halted := rfl
@[simp] theorem State.setI_errlog (s : State) (a : Addr) : (s.setI a).errlog = s.errlog := rfl
@[simp] theorem State.setI_iclk (s : State) (a : Addr) : (s.setI a).iclk = s.iclk := rfl
@[simp] theorem State.setI_dtAcc (s : State) (a : Addr) : (s.setI a).dtAcc = s.dtAcc := rfl
@[simp] theorem State.setI_keys (s : State) (a : Addr) : (s.setI a).keys = s.keys := rfl
@[simp] theorem State.setI_rnd (s : State) (a : Addr) : (s.setI a).rnd = s.rnd := rfl
@[simp] theorem State.setI_events (s : State) (a : Addr) : (s.setI a).events = s.events := rfl
@[simp] theorem State.setI_stopped (s : State) (a : Addr) : (s.setI a).stopped = s.stopped := rfl
@[simp] theorem State.setI_freeDraws (s : State) (a : Addr) : (s.setI a).freeDraws = s.freeDraws := rfl

/-! ### setPC -/

@[simp] theorem State.setPC_cfg (s : State) (a : Addr) : (s.setPC a).cfg = s.cfg := rfl
@[simp] theorem State.setPC_v (s : State) (a : Addr) : (s.setPC a).v = s.v := rfl
@[simp] theorem State.setPC_i (s : State) (a : Addr) : (s.setPC a).i = s.i := rfl
@[simp] theorem State.setPC_pc (s : State) (a : Addr) : (s.setPC a).pc = a := rfl
@[simp] theorem State.setPC_stack (s : State) (a : Addr) : (s.setPC a).stack = s.stack := rfl
@[simp] theorem State.setPC_mem (s : State) (a : Addr) : (s.setPC a).mem = s.mem := rfl
@[simp] theorem State.setPC_px (s : State) (a : Addr) : (s.setPC a).px = s.px := rfl
@[simp] theorem State.setPC_dt (s : State) (a : Addr) : (s.setPC a).dt = s.dt := rfl
@[simp] theorem State.setPC_st (s : State) (a : Addr) : (s.setPC a).st = s.st := rfl
@[simp] theorem State.setPC_dispChanged (s : State) (a : Addr) : (s.setPC a).dispChanged = s.dispChanged := rfl
@[simp] theorem State.setPC_halted (s : State) (a : Addr) : (s.setPC a).halted = s.halted := rfl
@[simp] theorem State.setPC_errlog (s : State) (a : Addr) : (s.setPC a).errlog = s.errlog := rfl
@[simp] theorem State.setPC_iclk (s : State) (a : Addr) : (s.setPC a).iclk = s.iclk := rfl
@[simp] theorem State.setPC_dtAcc (s : State) (a : Addr) : (s.setPC a).dtAcc = s.dtAcc := rfl
@[simp] theorem State.setPC_keys (s : State) (a : Addr) : (s.setPC a).keys = s.keys := rfl
@[simp] theorem State.setPC_rnd (s : State) (a : Addr) : (s.setPC a).rnd = s.rnd := rfl
@[simp] theorem State.setPC_events (s : State) (a : Addr) : (s.setPC a).events = s.events := rfl
@[simp] theorem State.setPC_stopped (s : State) (a : Addr) : (s.setPC a).stopped = s.stopped := rfl
@[simp] theorem State.setPC_freeDraws (s : State) (a : Addr) : (s.setPC a).freeDraws = s.freeDraws := rfl

/-! ### setDT -/

@[simp] theorem State.setDT_cfg (s : State) (b : Byte) : (s.setDT b).cfg = s.cfg := rfl
@[simp] theorem State.setDT_v (s : State) (b : Byte) : (s.setDT b).v = s.v := rfl
@[simp] theorem State.setDT_i (s : State) (b : Byte) : (s.setDT b).i = s.i := rfl
@[simp] theorem State.setDT_pc (s : State) (b : Byte) : (s.setDT b).pc = s.pc := rfl
@[simp] theorem State.setDT_stack (s : State) (b : Byte) : (s.setDT b).stack = s.stack := rfl
@[simp] theorem State.setDT_mem (s : State) (b : Byte) : (s.setDT b).mem = s.mem := rfl
@[simp] theorem State.setDT_px (s : State) (b : Byte) : (s.setDT b).px = s.px := rfl
@[simp] theorem State.setDT_dt (s : State) (b : Byte) : (s.setDT b).dt = b := rfl
@[simp] theorem State.setDT_st (s : State) (b : Byte) : (s.setDT b).st = s.st := rfl
@[simp] theorem State.setDT_dispChanged (s : State) (b : Byte) : (s.setDT b).dispChanged = s.dispChanged := rfl
@[simp] theorem State.setDT_halted (s : State) (b : Byte) : (s.setDT b).halted = s.halted := rfl
@[simp] theorem State.setDT_errlog (s : State) (b : Byte) : (s.setDT b).errlog = s.errlog := rfl
@[simp] theorem State.setDT_iclk (s : State) (b : Byte) : (s.setDT b).iclk = s.iclk := rfl
@[simp] theorem State.setDT_dtAcc (s : State) (b : Byte) : (s.setDT b).dtAcc = s.dtAcc := rfl
@[simp] theorem State.setDT_keys (s : State) (b : Byte) : (s.setDT b).keys = s.keys := rfl
@[simp] theorem State.setDT_rnd (s : State) (b : Byte) : (s.setDT b).rnd = s.rnd := rfl
@[simp] theorem State.setDT_events (s : State) (b : Byte) : (s.setDT b).events = s.events := rfl
@[simp] theorem State.setDT_stopped (s : State) (b : Byte) : (s.setDT b).stopped = s.stopped := rfl
@[simp] theorem State.setDT_freeDraws (s : State) (b : Byte) : (s.setDT b).freeDraws = s.freeDraws := rfl

/-! ### setST -/

@[simp] theorem State.setST_cfg (s : State) (b : Byte) : (s.setST b).cfg = s.cfg := rfl
@[simp] theorem State.setST_v (s : State) (b : Byte) : (s.setST b).v = s.v := rfl
@[simp] theorem State.setST_i (s : State) (b : Byte) : (s.setST b).i = s.i := rfl
@[simp] theorem State.setST_pc (s : State) (b : Byte) : (s.setST b).pc = s.pc := rfl
@[simp] theorem State.setST_stack (s : State) (b : Byte) : (s.setST b).stack = s.stack := rfl
@[simp] theorem State.setST_mem (s : State) (b : Byte) : (s.setST b).mem = s.mem := rfl
@[simp] theorem State.setST_px (s : State) (b : Byte) : (s.setST b).px = s.px := rfl
@[simp] theorem State.setST_dt (s : State) (b : Byte) : (s.setST b).dt = s.dt := rfl
@[simp] theorem State.setST_st (s : State) (b : Byte) : (s.setST b).st = b := rfl
@[simp] theorem State.setST_dispChanged (s : State) (b : Byte) : (s.setST b).dispChanged = s.dispChanged := rfl
@[simp] theorem State.setST_halted (s : State) (b : Byte) : (s.setST b).halted = s.halted := rfl
@[simp] theorem State.setST_errlog (s : State) (b : Byte) : (s.setST b).errlog = s.errlog := rfl
@[simp] theorem State.setST_iclk (s : State) (b : Byte) : (s.setST b).iclk = s.iclk := rfl
@[simp] theorem State.setST_dtAcc (s : State) (b : Byte) : (s.setST b).dtAcc = s.dtAcc := rfl
@[simp] theorem State.setST_keys (s : State) (b : Byte) : (s.setST b).keys = s.keys := rfl
@[simp] theorem State.setST_rnd (s : State) (b : Byte) : (s.setST b).rnd = s.rnd := rfl
@[simp] theorem State.setST_events (s : State) (b : Byte) : (s.setST b).events = s.events := rfl
@[simp] theorem State.setST_stopped (s : State) (b : Byte) : (s.setST b).stopped = s.stopped := rfl
@[simp] theorem State.setST_freeDraws (s : State) (b : Byte) : (s.setST b).freeDraws = s.freeDraws := rfl

/-! ### setFlag -/

@[simp] theorem State.setFlag_cfg (s : State) (b : Byte) : (s.setFlag b).cfg = s.cfg := rfl
@[simp] theorem State.setFlag_v (s : State) (b : Byte) : (s.setFlag b).v = s.v.set 15 b (by decide) := rfl
@[simp] theorem State.setFlag_i (s : State) (b : Byte) : (s.setFlag b).i = s.i := rfl
@[simp] theorem State.setFlag_pc (s : State) (b : Byte) : (s.setFlag b).pc = s.pc := rfl
@[simp] theorem State.setFlag_stack (s : State) (b : Byte) : (s.setFlag b).stack = s.stack := rfl
@[simp] theorem State.setFlag_mem (s : State) (b : Byte) : (s.setFlag b).mem = s.mem := rfl
@[simp] theorem State.setFlag_px (s : State) (b : Byte) : (s.setFlag b).px = s.px := rfl
@[simp] theorem State.setFlag_dt (s : State) (b : Byte) : (s.setFlag b).dt = s.dt := rfl
@[simp] theorem State.setFlag_st (s : State) (b : Byte) : (s.setFlag b).st = s.st := rfl
@[simp] theorem State.setFlag_dispChanged (s : State) (b : Byte) : (s.setFlag b).dispChanged = s.dispChanged := rfl
@[simp] theorem State.setFlag_halted (s : State) (b : Byte) : (s.setFlag b).halted = s.halted := rfl
@[simp] theorem State.setFlag_errlog (s : State) (b : Byte) : (s.setFlag b).errlog = s.errlog := rfl
@[simp] theorem State.setFlag_iclk (s : State) (b : Byte) : (s.setFlag b).iclk = s.iclk := rfl
@[simp] theorem State.setFlag_dtAcc (s : State) (b : Byte) : (s.setFlag b).dtAcc = s.dtAcc := rfl
@[simp] theorem State.setFlag_keys (s : State) (b : Byte) : (s.setFlag b).keys = s.keys := rfl
@[simp] theorem State.setFlag_rnd (s : State) (b : Byte) : (s.setFlag b).rnd = s.rnd := rfl
@[simp] theorem State.setFlag_events (s : State) (b : Byte) : (s.setFlag b).events = s.events := rfl
@[simp] theorem State.setFlag_stopped (s : State) (b : Byte) : (s.setFlag b).stopped = s.stopped := rfl
@[simp] theorem State.setFlag_freeDraws (s : State) (b : Byte) : (s.setFlag b).freeDraws = s.freeDraws := rfl

/-! ### setResultAndFlag -/

@[simp] theorem State.setResultAndFlag_cfg (s : State) (r : Reg) (b f : Byte) : (s.setResultAndFlag r b f).cfg = s.cfg := rfl
@[simp] theorem State.setResultAndFlag_v (s : State) (r : Reg) (b f : Byte) : (s.setResultAndFlag r b f).v = (s.v.set r.val b r.isLt).set 15 f (by decide) := rfl
@[simp] theorem State.setResultAndFlag_i (s : State) (r : Reg) (b f : Byte) : (s.setResultAndFlag r b f).i = s.i := rfl
@[simp] theorem State.setResultAndFlag_pc (s : State) (r : Reg) (b f : Byte) : (s.setResultAndFlag r b f).pc = s.pc := rfl
@[simp] theorem State.setResultAndFlag_stack (s : State) (r : Reg) (b f : Byte) : (s.setResultAndFlag r b f).stack = s.stack := rfl
@[simp] theorem State.setResultAndFlag_mem (s : State) (r : Reg) (b f : Byte) : (s.setResultAndFlag r b f).mem = s.mem := rfl
@[simp] theorem State.setResultAndFlag_px (s : State) (r : Reg) (b f : Byte) : (s.setResultAndFlag r b f).px = s.px := rfl
@[simp] theorem State.setResultAndFlag_dt (s : State) (r : Reg) (b f : Byte) : (s.setResultAndFlag r b f).dt = s.dt := rfl
@[simp] theorem State.setResultAndFlag_st (s : State) (r : Reg) (b f : Byte) : (s.setResultAndFlag r b f).st = s.st := rfl
@[simp] theorem State.setResultAndFlag_dispChanged (s : State) (r : Reg) (b f : Byte) : (s.setResultAndFlag r b f).dispChanged = s.dispChanged := rfl
@[simp] theorem State.setResultAndFlag_halted (s : State) (r : Reg) (b f : Byte) : (s.setResultAndFlag r b f).halted = s.halted := rfl
@[simp] theorem State.setResultAndFlag_errlog (s : State) (r : Reg) (b f : Byte) : (s.setResultAndFlag r b f).errlog = s.errlog := rfl
@[simp] theorem State.setResultAndFlag_iclk (s : State) (r : Reg) (b f : Byte) : (s.setResultAndFlag r b f).iclk = s.iclk := rfl
@[simp] theorem State.setResultAndFlag_dtAcc (s : State) (r : Reg) (b f : Byte) : (s.setResultAndFlag r b f).dtAcc = s.dtAcc := rfl
@[simp] theorem State.setResultAndFlag_keys (s : State) (r : Reg) (b f : Byte) : (s.setResultAndFlag r b f).keys = s.keys := rfl
@[simp] theorem State.setResultAndFlag_rnd (s : State) (r : Reg) (b f : Byte) : (s.setResultAndFlag r b f).rnd = s.rnd := rfl
@[simp] theorem State.setResultAndFlag_events (s : State) (r : Reg) (b f : Byte) : (s.setResultAndFlag r b f).events = s.events := rfl
@[simp] theorem State.setResultAndFlag_stopped (s : State) (r : Reg) (b f : Byte) : (s.setResultAndFlag r b f).stopped = s.stopped := rfl
@[simp] theorem State.setResultAndFlag_freeDraws (s : State) (r : Reg) (b f : Byte) : (s.setResultAndFlag r b f).freeDraws = s.freeDraws := rfl

/-! ### skipIf -/

@[simp] theorem State.skipIf_cfg (s : State) (c : Bool) : (s.skipIf c).cfg = s.cfg := rfl
@[simp] theorem State.skipIf_v (s : State) (c : Bool) : (s.skipIf c).v = s.v := rfl
@[simp] theorem State.skipIf_i (s : State) (c : Bool) : (s.skipIf c).i = s.i := rfl
@[simp] theorem State.skipIf_pc (s : State) (c : Bool) : (s.skipIf c).pc = (if c then s.pc + 2 else s.pc) := rfl
@[simp] theorem State.skipIf_stack (s : State) (c : Bool) : (s.skipIf c).stack = s.stack := rfl
@[simp] theorem State.skipIf_mem (s : State) (c : Bool) : (s.skipIf c).mem = s.mem := rfl
@[simp] theorem State.skipIf_px (s : State) (c : Bool) : (s.skipIf c).px = s.px := rfl
@[simp] theorem State.skipIf_dt (s : State) (c : Bool) : (s.skipIf c).dt = s.dt := rfl
@[simp] theorem State.skipIf_st (s : State) (c : Bool) : (s.skipIf c).st = s.st := rfl
@[simp] theorem State.skipIf_dispChanged (s : State) (c : Bool) : (s.skipIf c).dispChanged = s.dispChanged := rfl
@[simp] theorem State.skipIf_halted (s : State) (c : Bool) : (s.skipIf c).halted = s.halted := rfl
@[simp] theorem State.skipIf_errlog (s : State) (c : Bool) : (s.skipIf c).errlog = s.errlog := rfl
@[simp] theorem State.skipIf_iclk (s : State) (c : Bool) : (s.skipIf c).iclk = s.iclk := rfl
@[simp] theorem State.skipIf_dtAcc (s : State) (c : Bool) : (s.skipIf c).dtAcc = s.dtAcc := rfl
@[simp] theorem State.skipIf_keys (s : State) (c : Bool) : (s.skipIf c).keys = s.keys := rfl
@[simp] theorem State.skipIf_rnd (s : State) (c : Bool) : (s.skipIf c).rnd = s.rnd := rfl
@[simp] theorem State.skipIf_events (s : State) (c : Bool) : (s.skipIf c).events = s.events := rfl
@[simp] theorem State.skipIf_stopped (s : State) (c : Bool) : (s.skipIf c).stopped = s.stopped := rfl
@[simp] theorem State.skipIf_freeDraws (s : State) (c : Bool) : (s.skipIf c).freeDraws = s.freeDraws := rfl

/-! ### advancePC -/

@[simp] theorem State.advancePC_cfg (s : State) : (s.advancePC).cfg = s.cfg := rfl
@[simp] theorem State.advancePC_v (s : State) : (s.advancePC).v = s.v := rfl
@[simp] theorem State.advancePC_i (s : State) : (s.advancePC).i = s.i := rfl
@[simp] theorem State.advancePC_pc (s : State) : (s.advancePC).pc = s.pc + 2 := rfl
@[simp] theorem State.advancePC_stack (s : State) : (s.advancePC).stack = s.stack := rfl
@[simp] theorem State.advancePC_mem (s : State) : (s.advancePC).mem = s.mem := rfl
@[simp] theorem State.advancePC_px (s : State) : (s.advancePC).px = s.px := rfl
@[simp] theorem State.advancePC_dt (s : State) : (s.advancePC).dt = s.dt := rfl
@[simp] theorem State.advancePC_st (s : State) : (s.advancePC).st = s.st := rfl
@[simp] theorem State.advancePC_dispChanged (s : State) : (s.advancePC).dispChanged = s.dispChanged := rfl
@[simp] theorem State.advancePC_halted (s : State) : (s.advancePC).halted = s.halted := rfl
@[simp] theorem State.advancePC_errlog (s : State) : (s.advancePC).errlog = s.errlog := rfl
@[simp] theorem State.advancePC_iclk (s : State) : (s.advancePC).iclk = s.iclk := rfl
@[simp] theorem State.advancePC_dtAcc (s : State) : (s.advancePC).dtAcc = s.dtAcc := rfl
@[simp] theorem State.advancePC_keys (s : State) : (s.advancePC).keys = s.keys := rfl
@[simp] theorem State.advancePC_rnd (s : State) : (s.advancePC).rnd = s.rnd := rfl
@[simp] theorem State.advancePC_events (s : State) : (s.advancePC).events = s.events := rfl
@[simp] theorem State.advancePC_stopped (s : State) : (s.advancePC).stopped = s.stopped := rfl
@[simp] theorem State.advancePC_freeDraws (s : State) : (s.advancePC).freeDraws = s.freeDraws := rfl

/-! ### memWrite -/

@[simp] theorem State.memWrite_cfg (s : State) (a : Nat) (b : Byte) : (s.memWrite a b).cfg = s.cfg := rfl
@[simp] theorem State.memWrite_v (s : State) (a : Nat) (b : Byte) : (s.memWrite a b).v = s.v := rfl
@[simp] theorem State.memWrite_i (s : State) (a : Nat) (b : Byte) : (s.memWrite a b).i = s.i := rfl
@[simp] theorem State.memWrite_pc (s : State) (a : Nat) (b : Byte) : (s.memWrite a b).pc = s.pc := rfl
@[simp] theorem State.memWrite_stack (s : State) (a : Nat) (b : Byte) : (s.memWrite a b).stack = s.stack := rfl
@[simp] theorem State.memWrite_mem (s : State) (a : Nat) (b : Byte) : (s.memWrite a b).mem = (if a < s.cfg.memSize then Memory.set s.mem a b else s.mem) := rfl
@[simp] theorem State.memWrite_px (s : State) (a : Nat) (b : Byte) : (s.memWrite a b).px = s.px := rfl
@[simp] theorem State.memWrite_dt (s : State) (a : Nat) (b : Byte) : (s.memWrite a b).dt = s.dt := rfl
@[simp] theorem State.memWrite_st (s : State) (a : Nat) (b : Byte) : (s.memWrite a b).st = s.st := rfl
@[simp] theorem State.memWrite_dispChanged (s : State) (a : Nat) (b : Byte) : (s.memWrite a b).dispChanged = s.dispChanged := rfl
@[simp] theorem State.memWrite_halted (s : State) (a : Nat) (b : Byte) : (s.memWrite a b).halted = s.halted := rfl
@[simp] theorem State.memWrite_errlog (s : State) (a : Nat) (b : Byte) : (s.memWrite a b).errlog = s.errlog := rfl
@[simp] theorem State.memWrite_iclk (s : State) (a : Nat) (b : Byte) : (s.memWrite a b).iclk = s.iclk := rfl
@[simp] theorem State.memWrite_dtAcc (s : State) (a : Nat) (b : Byte) : (s.memWrite a b).dtAcc = s.dtAcc := rfl
@[simp] theorem State.memWrite_keys (s : State) (a : Nat) (b : Byte) : (s.memWrite a b).keys = s.keys := rfl
@[simp] theorem State.memWrite_rnd (s : State) (a : Nat) (b : Byte) : (s.memWrite a b).rnd = s.rnd := rfl
@[simp] theorem State.memWrite_events (s : State) (a : Nat) (b : Byte) : (s.memWrite a b).events = s.events := rfl
@[simp] theorem State.memWrite_stopped (s : State) (a : Nat) (b : Byte) : (s.memWrite a b).stopped = s.stopped := rfl
@[simp] theorem State.memWrite_freeDraws (s : State) (a : Nat) (b : Byte) : (s.memWrite a b).freeDraws = s.freeDraws := rfl

/-! ### push -/

@[simp] theorem State.push_cfg (s : State) (a : Addr) : (s.push a).cfg = s.cfg := rfl
@[simp] theorem State.push_v (s : State) (a : Addr) : (s.push a).v = s.v := rfl
@[simp] theorem State.push_i (s : State) (a : Addr) : (s.push a).i = s.i := rfl
@[simp] theorem State.push_pc (s : State) (a : Addr) : (s.push a).pc = s.pc := rfl
@[simp] theorem State.push_stack (s : State) (a : Addr) : (s.push a).stack = s.stack ++ [a] := rfl
@[simp] theorem State.push_mem (s : State) (a : Addr) : (s.push a).mem = s.mem := rfl
@[simp] theorem State.push_px (s : State) (a : Addr) : (s.push a).px = s.px := rfl
@[simp] theorem State.push_dt (s : State) (a : Addr) : (s.push a).dt = s.dt := rfl
@[simp] theorem State.push_st (s : State) (a : Addr) : (s.push a).st = s.st := rfl
@[simp] theorem State.push_dispChanged (s : State) (a : Addr) : (s.push a).dispChanged = s.dispChanged := rfl
@[simp] theorem State.push_halted (s : State) (a : Addr) : (s.push a).halted = s.halted := rfl
@[simp] theorem State.push_errlog (s : State) (a : Addr) : (s.push a).errlog = s.errlog := rfl
@[simp] theorem State.push_iclk (s : State) (a : Addr) : (s.push a).iclk = s.iclk := rfl
@[simp] theorem State.push_dtAcc (s : State) (a : Addr) : (s.push a).dtAcc = s.dtAcc := rfl
@[simp] theorem State.push_keys (s : State) (a : Addr) : (s.push a).keys = s.keys := rfl
@[simp] theorem State.push_rnd (s : State) (a : Addr) : (s.push a).rnd = s.rnd := rfl
@[simp] theorem State.push_events (s : State) (a : Addr) : (s.push a).events = s.events := rfl
@[simp] theorem State.push_stopped (s : State) (a : Addr) : (s.push a).stopped = s.stopped := rfl
@[simp] theorem State.push_freeDraws (s : State) (a : Addr) : (s.push a).freeDraws = s.freeDraws := rfl

/-! ### dropTop -/

@[simp] theorem State.dropTop_cfg (s : State) : (s.dropTop).cfg = s.cfg := rfl
@[simp] theorem State.dropTop_v (s : State) : (s.dropTop).v = s.v := rfl
@[simp] theorem State.dropTop_i (s : State) : (s.dropTop).i = s.i := rfl
@[simp] theorem State.dropTop_pc (s : State) : (s.dropTop).pc = s.pc := rfl
@[simp] theorem State.dropTop_stack (s : State) : (s.dropTop).stack = s.stack.dropLast := rfl
@[simp] theorem State.dropTop_mem (s : State) : (s.dropTop).mem = s.mem := rfl
@[simp] theorem State.dropTop_px (s : State) : (s.dropTop).px = s.px := rfl
@[simp] theorem State.dropTop_dt (s : State) : (s.dropTop).dt = s.dt := rfl
@[simp] theorem State.dropTop_st (s : State) : (s.dropTop).st = s.st := rfl
@[simp] theorem State.dropTop_dispChanged (s : State) : (s.dropTop).dispChanged = s.dispChanged := rfl
@[simp] theorem State.dropTop_halted (s : State) : (s.dropTop).halted = s.halted := rfl
@[simp] theorem State.dropTop_errlog (s : State) : (s.dropTop).errlog = s.errlog := rfl
@[simp] theorem State.dropTop_iclk (s : State) : (s.dropTop).iclk = s.iclk := rfl
@[simp] theorem State.dropTop_dtAcc (s : State) : (s.dropTop).dtAcc = s.dtAcc := rfl
@[simp] theorem State.dropTop_keys (s : State) : (s.dropTop).keys = s.keys := rfl
@[simp] theorem State.dropTop_rnd (s : State) : (s.dropTop).rnd = s.rnd := rfl
@[simp] theorem State.dropTop_events (s : State) : (s.dropTop).events = s.events := rfl
@[simp] theorem State.dropTop_stopped (s : State) : (s.dropTop).stopped = s.stopped := rfl
@[simp] theorem State.dropTop_freeDraws (s : State) : (s.dropTop).freeDraws = s.freeDraws := rfl

/-! ### showGrid -/

@[simp] theorem State.showGrid_cfg (s : State) (g : Grid) : (s.showGrid g).cfg = s.cfg := rfl
@[simp] theorem State.showGrid_v (s : State) (g : Grid) : (s.showGrid g).v = s.v := rfl
@[simp] theorem State.showGrid_i (s : State) (g : Grid) : (s.showGrid g).i = s.i := rfl
@[simp] theorem State.showGrid_pc (s : State) (g : Grid) : (s.showGrid g).pc = s.pc := rfl
@[simp] theorem State.showGrid_stack (s : State) (g : Grid) : (s.showGrid g).stack = s.stack := rfl
@[simp] theorem State.showGrid_mem (s : State) (g : Grid) : (s.showGrid g).mem = s.mem := rfl
@[simp] theorem State.showGrid_px (s : State) (g : Grid) : (s.showGrid g).px = g := rfl
@[simp] theorem State.showGrid_dt (s : State) (g : Grid) : (s.showGrid g).dt = s.dt := rfl
@[simp] theorem State.showGrid_st (s : State) (g : Grid) : (s.showGrid g).st = s.st := rfl
@[simp] theorem State.showGrid_dispChanged (s : State) (g : Grid) : (s.showGrid g).dispChanged = true := rfl
@[simp] theorem State.showGrid_halted (s : State) (g : Grid) : (s.showGrid g).halted = s.halted := rfl
@[simp] theorem State.showGrid_errlog (s : State) (g : Grid) : (s.showGrid g).errlog = s.errlog := rfl
@[simp] theorem State.showGrid_iclk (s : State) (g : Grid) : (s.showGrid g).iclk = s.iclk := rfl
@[simp] theorem State.showGrid_dtAcc (s : State) (g : Grid) : (s.showGrid g).dtAcc = s.dtAcc := rfl
@[simp] theorem State.showGrid_keys (s : State) (g : Grid) : (s.showGrid g).keys = s.keys := rfl
@[simp] theorem State.showGrid_rnd (s : State) (g : Grid) : (s.showGrid g).rnd = s.rnd := rfl
@[simp] theorem State.showGrid_events (s : State) (g : Grid) : (s.showGrid g).events = s.events := rfl
@[simp] theorem State.showGrid_stopped (s : State) (g : Grid) : (s.showGrid g).stopped = s.stopped := rfl
@[simp] theorem State.showGrid_freeDraws (s : State) (g : Grid) : (s.showGrid g).freeDraws = s.freeDraws := rfl

/-! ### displayWasRead -/

@[simp] theorem State.displayWasRead_cfg (s : State) : (s.displayWasRead).cfg = s.cfg := rfl
@[simp] theorem State.displayWasRead_v (s : State) : (s.displayWasRead).v = s.v := rfl
@[simp] theorem State.displayWasRead_i (s : State) : (s.displayWasRead).i = s.i := rfl
@[simp] theorem State.displayWasRead_pc (s : State) : (s.displayWasRead).pc = s.pc := rfl
@[simp] theorem State.displayWasRead_stack (s : State) : (s.displayWasRead).stack = s.stack := rfl
@[simp] theorem State.displayWasRead_mem (s : State) : (s.displayWasRead).mem = s.mem := rfl
@[simp] theorem State.displayWasRead_px (s : State) : (s.displayWasRead).px = s.px := rfl
@[simp] theorem State.displayWasRead_dt (s : State) : (s.displayWasRead).dt = s.dt := rfl
@[simp] theorem State.displayWasRead_st (s : State) : (s.displayWasRead).st = s.st := rfl
@[simp] theorem State.displayWasRead_dispChanged (s : State) : (s.displayWasRead).dispChanged = false := rfl
@[simp] theorem State.displayWasRead_halted (s : State) : (s.displayWasRead).halted = s.halted := rfl
@[simp] theorem State.displayWasRead_errlog (s : State) : (s.displayWasRead).errlog = s.errlog := rfl
@[simp] theorem State.displayWasRead_iclk (s : State) : (s.displayWasRead).iclk = s.iclk := rfl
@[simp] theorem State.displayWasRead_dtAcc (s : State) : (s.displayWasRead).dtAcc = s.dtAcc := rfl
@[simp] theorem State.displayWasRead_keys (s : State) : (s.displayWasRead).keys = s.keys := rfl
@[simp] theorem State.displayWasRead_rnd (s : State) : (s.displayWasRead).rnd = s.rnd := rfl
@[simp] theorem State.displayWasRead_events (s : State) : (s.displayWasRead).events = s.events := rfl
@[simp] theorem State.displayWasRead_stopped (s : State) : (s.displayWasRead).stopped = s.stopped := rfl
@[simp] theorem State.displayWasRead_freeDraws (s : State) : (s.displayWasRead).freeDraws = s.freeDraws := rfl

/-! ### delayStep -/

@[simp] theorem State.delayStep_cfg (s : State) : (s.delayStep).cfg = s.cfg := rfl
@[simp] theorem State.delayStep_v (s : State) : (s.delayStep).v = s.v := rfl
@[simp] theorem State.delayStep_i (s : State) : (s.delayStep).i = s.i := rfl
@[simp] theorem State.delayStep_pc (s : State) : (s.delayStep).pc = s.pc := rfl
@[simp] theorem State.delayStep_stack (s : State) : (s.delayStep).stack = s.stack := rfl
@[simp] theorem State.delayStep_mem (s : State) : (s.delayStep).mem = s.mem := rfl
@[simp] theorem State.delayStep_px (s : State) : (s.delayStep).px = s.px := rfl
@[simp] theorem State.delayStep_dt (s : State) : (s.delayStep).dt = BitVec.ofNat 8 (timerStep s.cfg.dtFreq s.dt.toNat) := rfl
@[simp] theorem State.delayStep_st (s : State) : (s.delayStep).st = s.st := rfl
@[simp] theorem State.delayStep_dispChanged (s : State) : (s.delayStep).dispChanged = s.dispChanged := rfl
@[simp] theorem State.delayStep_halted (s : State) : (s.delayStep).halted = s.halted := rfl
@[simp] theorem State.delayStep_errlog (s : State) : (s.delayStep).errlog = s.errlog := rfl
@[simp] theorem State.delayStep_iclk (s : State) : (s.delayStep).iclk = s.iclk := rfl
@[simp] theorem State.delayStep_dtAcc (s : State) : (s.delayStep).dtAcc = s.dtAcc := rfl
@[simp] theorem State.delayStep_keys (s : State) : (s.delayStep).keys = s.keys := rfl
@[simp] theorem State.delayStep_rnd (s : State) : (s.delayStep).rnd = s.rnd := rfl
@[simp] theorem State.delayStep_events (s : State) : (s.delayStep).events = s.events := rfl
@[simp] theorem State.delayStep_stopped (s : State) : (s.delayStep).stopped = s.stopped := rfl
@[simp] theorem State.delayStep_freeDraws (s : State) : (s.delayStep).freeDraws = s.freeDraws := rfl

/-! ### tickDelay -/

@[simp] theorem State.tickDelay_cfg (s : State) (d : Nat) : (s.tickDelay d).cfg = s.cfg := rfl
@[simp] theorem State.tickDelay_v (s : State) (d : Nat) : (s.tickDelay d).v = s.v := rfl
@[simp] theorem State.tickDelay_i (s : State) (d : Nat) : (s.tickDelay d).i = s.i := rfl
@[simp] theorem State.tickDelay_pc (s : State) (d : Nat) : (s.tickDelay d).pc = s.pc := rfl
@[simp] theorem State.tickDelay_stack (s : State) (d : Nat) : (s.tickDelay d).stack = s.stack := rfl
@[simp] theorem State.tickDelay_mem (s : State) (d : Nat) : (s.tickDelay d).mem = s.mem := rfl
@[simp] theorem State.tickDelay_px (s : State) (d : Nat) : (s.tickDelay d).px = s.px := rfl
@[simp] theorem State.tickDelay_st (s : State) (d : Nat) : (s.tickDelay d).st = s.st := rfl
@[simp] theorem State.tickDelay_dispChanged (s : State) (d : Nat) : (s.tickDelay d).dispChanged = s.dispChanged := rfl
@[simp] theorem State.tickDelay_halted (s : State) (d : Nat) : (s.tickDelay d).halted = s.halted := rfl
@[simp] theorem State.tickDelay_errlog (s : State) (d : Nat) : (s.tickDelay d).errlog = s.errlog := rfl
@[simp] theorem State.tickDelay_iclk (s : State) (d : Nat) : (s.tickDelay d).iclk = s.iclk := rfl
@[simp] theorem State.tickDelay_dtAcc (s : State) (d : Nat) : (s.tickDelay d).dtAcc = (Timer.tick s.cfg.dtFreq s.cfg.dclkPeriod s.delayTimer d).1.acc := rfl
@[simp] theorem State.tickDelay_keys (s : State) (d : Nat) : (s.tickDelay d).keys = s.keys := rfl
@[simp] theorem State.tickDelay_rnd (s : State) (d : Nat) : (s.tickDelay d).rnd = s.rnd := rfl
@[simp] theorem State.tickDelay_events (s : State) (d : Nat) : (s.tickDelay d).events = s.events := rfl
@[simp] theorem State.tickDelay_stopped (s : State) (d : Nat) : (s.tickDelay d).stopped = s.stopped := rfl
@[simp] theorem State.tickDelay_freeDraws (s : State) (d : Nat) : (s.tickDelay d).freeDraws = s.freeDraws := rfl

/-! ### tickInstr -/

@[simp] theorem State.tickInstr_cfg (s : State) (d : Nat) : (s.tickInstr d).cfg = s.cfg := rfl
@[simp] theorem State.tickInstr_v (s : State) (d : Nat) : (s.tickInstr d).v = s.v := rfl
@[simp] theorem State.tickInstr_i (s : State) (d : Nat) : (s.tickInstr d).i = s.i := rfl
@[simp] theorem State.tickInstr_pc (s : State) (d : Nat) : (s.tickInstr d).pc = s.pc := rfl
@[simp] theorem State.tickInstr_stack (s : State) (d : Nat) : (s.tickInstr d).stack = s.stack := rfl
@[simp] theorem State.tickInstr_mem (s : State) (d : Nat) : (s.tickInstr d).mem = s.mem := rfl
@[simp] theorem State.tickInstr_px (s : State) (d : Nat) : (s.tickInstr d).px = s.px := rfl
@[simp] theorem State.tickInstr_dt (s : State) (d : Nat) : (s.tickInstr d).dt = s.dt := rfl
@[simp] theorem State.tickInstr_st (s : State) (d : Nat) : (s.tickInstr d).st = s.st := rfl
@[simp] theorem State.tickInstr_dispChanged (s : State) (d : Nat) : (s.tickInstr d).dispChanged = s.dispChanged := rfl
@[simp] theorem State.tickInstr_halted (s : State) (d : Nat) : (s.tickInstr d).halted = s.halted := rfl
@[simp] theorem State.tickInstr_errlog (s : State) (d : Nat) : (s.tickInstr d).errlog = s.errlog := rfl
@[simp] theorem State.tickInstr_iclk (s : State) (d : Nat) : (s.tickInstr d).iclk = (Timer.tick s.cfg.iclkFreq s.cfg.iclkPeriod s.iclk d).1 := rfl
@[simp] theorem State.tickInstr_dtAcc (s : State) (d : Nat) : (s.tickInstr d).dtAcc = s.dtAcc := rfl
@[simp] theorem State.tickInstr_keys (s : State) (d : Nat) : (s.tickInstr d).keys = s.keys := rfl
@[simp] theorem State.tickInstr_rnd (s : State) (d : Nat) : (s.tickInstr d).rnd = s.rnd := rfl
@[simp] theorem State.tickInstr_events (s : State) (d : Nat) : (s.tickInstr d).events = s.events := rfl
@[simp] theorem State.tickInstr_stopped (s : State) (d : Nat) : (s.tickInstr d).stopped = s.stopped := rfl
@[simp] theorem State.tickInstr_freeDraws (s : State) (d : Nat) : (s.tickInstr d).freeDraws = s.freeDraws := rfl

/-! ### latch -/

@[simp] theorem State.latch_cfg (s : State) (k : Word) (b : Byte) : (s.latch k b).cfg = s.cfg := rfl
@[simp] theorem State.latch_v (s : State) (k : Word) (b : Byte) : (s.latch k b).v = s.v := rfl
@[simp] theorem State.latch_i (s : State) (k : Word) (b : Byte) : (s.latch k b).i = s.i := rfl
@[simp] theorem State.latch_pc (s : State) (k : Word) (b : Byte) : (s.latch k b).pc = s.pc := rfl
@[simp] theorem State.latch_stack (s : State) (k : Word) (b : Byte) : (s.latch k b).stack = s.stack := rfl
@[simp] theorem State.latch_mem (s : State) (k : Word) (b : Byte) : (s.latch k b).mem = s.mem := rfl
@[simp] theorem State.latch_px (s : State) (k : Word) (b : Byte) : (s.latch k b).px = s.px := rfl
@[simp] theorem State.latch_dt (s : State) (k : Word) (b : Byte) : (s.latch k b).dt = s.dt := rfl
@[simp] theorem State.latch_st (s : State) (k : Word) (b : Byte) : (s.latch k b).st = s.st := rfl
@[simp] theorem State.latch_dispChanged (s : State) (k : Word) (b : Byte) : (s.latch k b).dispChanged = s.dispChanged := rfl
@[simp] theorem State.latch_halted (s : State) (k : Word) (b : Byte) : (s.latch k b).halted = s.halted := rfl
@[simp] theorem State.latch_errlog (s : State) (k : Word) (b : Byte) : (s.latch k b).errlog = s.errlog := rfl
@[simp] theorem State.latch_iclk (s : State) (k : Word) (b : Byte) : (s.latch k b).iclk = s.iclk := rfl
@[simp] theorem State.latch_dtAcc (s : State) (k : Word) (b : Byte) : (s.latch k b).dtAcc = s.dtAcc := rfl
@[simp] theorem State.latch_keys (s : State) (k : Word) (b : Byte) : (s.latch k b).keys = k := rfl
@[simp] theorem State.latch_rnd (s : State) (k : Word) (b : Byte) : (s.latch k b).rnd = b := rfl
@[simp] theorem State.latch_events (s : State) (k : Word) (b : Byte) : (s.latch k b).events = s.events := rfl
@[simp] theorem State.latch_stopped (s : State) (k : Word) (b : Byte) : (s.latch k b).stopped = s.stopped := rfl
@[simp] theorem State.latch_freeDraws (s : State) (k : Word) (b : Byte) : (s.latch k b).freeDraws = s.freeDraws := rfl

/-! ### countDraw -/

@[simp] theorem State.countDraw_cfg (s : State) : (s.countDraw).cfg = s.cfg := rfl
@[simp] theorem State.countDraw_v (s : State) : (s.countDraw).v = s.v := rfl
@[simp] theorem State.countDraw_i (s : State) : (s.countDraw).i = s.i := rfl
@[simp] theorem State.countDraw_pc (s : State) : (s.countDraw).pc = s.pc := rfl
@[simp] theorem State.countDraw_stack (s : State) : (s.countDraw).stack = s.stack := rfl
@[simp] theorem State.countDraw_mem (s : State) : (s.countDraw).mem = s.mem := rfl
@[simp] theorem State.countDraw_px (s : State) : (s.countDraw).px = s.px := rfl
@[simp] theorem State.countDraw_dt (s : State) : (s.countDraw).dt = s.dt := rfl
@[simp] theorem State.countDraw_st (s : State) : (s.countDraw).st = s.st := rfl
@[simp] theorem State.countDraw_dispChanged (s : State) : (s.countDraw).dispChanged = s.dispChanged := rfl
@[simp] theorem State.countDraw_halted (s : State) : (s.countDraw).halted = s.halted := rfl
@[simp] theorem State.countDraw_errlog (s : State) : (s.countDraw).errlog = s.errlog := rfl
@[simp] theorem State.countDraw_iclk (s : State) : (s.countDraw).iclk = s.iclk := rfl
@[simp] theorem State.countDraw_dtAcc (s : State) : (s.countDraw).dtAcc = s.dtAcc := rfl
@[simp] theorem State.countDraw_keys (s : State) : (s.countDraw).keys = s.keys := rfl
@[simp] theorem State.countDraw_rnd (s : State) : (s.countDraw).rnd = s.rnd := rfl
@[simp] theorem State.countDraw_events (s : State) : (s.countDraw).events = s.events := rfl
@[simp] theorem State.countDraw_stopped (s : State) : (s.countDraw).stopped = s.stopped := rfl
@[simp] theorem State.countDraw_freeDraws (s : State) : (s.countDraw).freeDraws = s.freeDraws + 1 := rfl

/-! ### setEvents -/

@[simp] theorem State.setEvents_cfg (s : State) (es : List Event) : (s.setEvents es).cfg = s.cfg := rfl
@[simp] theorem State.setEvents_v (s : State) (es : List Event) : (s.setEvents es).v = s.v := rfl
@[simp] theorem State.setEvents_i (s : State) (es : List Event) : (s.setEvents es).i = s.i := rfl
@[simp] theorem State.setEvents_pc (s : State) (es : List Event) : (s.setEvents es).pc = s.pc := rfl
@[simp] theorem State.setEvents_stack (s : State) (es : List Event) : (s.setEvents es).stack = s.stack := rfl
@[simp] theorem State.setEvents_mem (s : State) (es : List Event) : (s.setEvents es).mem = s.mem := rfl
@[simp] theorem State.setEvents_px (s : State) (es : List Event) : (s.setEvents es).px = s.px := rfl
@[simp] theorem State.setEvents_dt (s : State) (es : List Event) : (s.setEvents es).dt = s.dt := rfl
@[simp] theorem State.setEvents_st (s : State) (es : List Event) : (s.setEvents es).st = s.st := rfl
@[simp] theorem State.setEvents_dispChanged (s : State) (es : List Event) : (s.setEvents es).dispChanged = s.dispChanged := rfl
@[simp] theorem State.setEvents_halted (s : State) (es : List Event) : (s.setEvents es).halted = s.halted := rfl
@[simp] theorem State.setEvents_errlog (s : State) (es : List Event) : (s.setEvents es).errlog = s.errlog := rfl
@[simp] theorem State.setEvents_iclk (s : State) (es : List Event) : (s.setEvents es).iclk = s.iclk := rfl
@[simp] theorem State.setEvents_dtAcc (s : State) (es : List Event) : (s.setEvents es).dtAcc = s.dtAcc := rfl
@[simp] theorem State.setEvents_keys (s : State) (es : List Event) : (s.setEvents es).keys = s.keys := rfl
@[simp] theorem State.setEvents_rnd (s : State) (es : List Event) : (s.setEvents es).rnd = s.rnd := rfl
@[simp] theorem State.setEvents_events (s : State) (es : List Event) : (s.setEvents es).events = es := rfl
@[simp] theorem State.setEvents_stopped (s : State) (es : List Event) : (s.setEvents es).stopped = s.stopped := rfl
@[simp] theorem State.setEvents_freeDraws (s : State) (es : List Event) : (s.setEvents es).freeDraws = s.freeDraws := rfl

/-! ### setStopped -/

@[simp] theorem State.setStopped_cfg (s : State) : (s.setStopped).cfg = s.cfg := rfl
@[simp] theorem State.setStopped_v (s : State) : (s.setStopped).v = s.v := rfl
@[simp] theorem State.setStopped_i (s : State) : (s.setStopped).i = s.i := rfl
@[simp] theorem State.setStopped_pc (s : State) : (s.setStopped).pc = s.pc := rfl
@[simp] theorem State.setStopped_stack (s : State) : (s.setStopped).stack = s.stack := rfl
@[simp] theorem State.setStopped_mem (s : State) : (s.setStopped).mem = s.mem := rfl
@[simp] theorem State.setStopped_px (s : State) : (s.setStopped).px = s.px := rfl
@[simp] theorem State.setStopped_dt (s : State) : (s.setStopped).dt = s.dt := rfl
@[simp] theorem State.setStopped_st (s : State) : (s.setStopped).st = s.st := rfl
@[simp] theorem State.setStopped_dispChanged (s : State) : (s.setStopped).dispChanged = s.dispChanged := rfl
@[simp] theorem State.setStopped_halted (s : State) : (s.setStopped).halted = s.halted := rfl
@[simp] theorem State.setStopped_errlog (s : State) : (s.setStopped).errlog = s.errlog := rfl
@[simp] theorem State.setStopped_iclk (s : State) : (s.setStopped).iclk = s.iclk := rfl
@[simp] theorem State.setStopped_dtAcc (s : State) : (s.setStopped).dtAcc = s.dtAcc := rfl
@[simp] theorem State.setStopped_keys (s : State) : (s.setStopped).keys = s.keys := rfl
@[simp] theorem State.setStopped_rnd (s : State) : (s.setStopped).rnd = s.rnd := rfl
@[simp] theorem State.setStopped_events (s : State) : (s.setStopped).events = s.events := rfl
@[simp] theorem State.setStopped_stopped (s : State) : (s.setStopped).stopped = true := rfl
@[simp] theorem State.setStopped_freeDraws (s : State) : (s.setStopped).freeDraws = s.freeDraws := rfl

/-! ### loadRegs -/

@[simp] theorem State.loadRegs_cfg (s : State) (x : Reg) : (s.loadRegs x).cfg = s.cfg := rfl
@[simp] theorem State.loadRegs_i (s : State) (x : Reg) : (s.loadRegs x).i = s.i := rfl
@[simp] theorem State.loadRegs_pc (s : State) (x : Reg) : (s.loadRegs x).pc = s.pc := rfl
@[simp] theorem State.loadRegs_stack (s : State) (x : Reg) : (s.loadRegs x).stack = s.stack := rfl
@[simp] theorem State.loadRegs_mem (s : State) (x : Reg) : (s.loadRegs x).mem = s.mem := rfl
@[simp] theorem State.loadRegs_px (s : State) (x : Reg) : (s.loadRegs x).px = s.px := rfl
@[simp] theorem State.loadRegs_dt (s : State) (x : Reg) : (s.loadRegs x).dt = s.dt := rfl
@[simp] theorem State.loadRegs_st (s : State) (x : Reg) : (s.loadRegs x).st = s.st := rfl
@[simp] theorem State.loadRegs_dispChanged (s : State) (x : Reg) : (s.loadRegs x).dispChanged = s.dispChanged := rfl
@[simp] theorem State.loadRegs_halted (s : State) (x : Reg) : (s.loadRegs x).halted = s.halted := rfl
@[simp] theorem State.loadRegs_errlog (s : State) (x : Reg) : (s.loadRegs x).errlog = s.errlog := rfl
@[simp] theorem State.loadRegs_iclk (s : State) (x : Reg) : (s.loadRegs x).iclk = s.iclk := rfl
@[simp] theorem State.loadRegs_dtAcc (s : State) (x : Reg) : (s.loadRegs x).dtAcc = s.dtAcc := rfl
@[simp] theorem State.loadRegs_keys (s : State) (x : Reg) : (s.loadRegs x).keys = s.keys := rfl
@[simp] theorem State.loadRegs_rnd (s : State) (x : Reg) : (s.loadRegs x).rnd = s.rnd := rfl
@[simp] theorem State.loadRegs_events (s : State) (x : Reg) : (s.loadRegs x).events = s.events := rfl
@[simp] theorem State.loadRegs_stopped (s : State) (x : Reg) : (s.loadRegs x).stopped = s.stopped := rfl
@[simp] theorem State.loadRegs_freeDraws (s : State) (x : Reg) : (s.loadRegs x).freeDraws = s.freeDraws := rfl

/-! ### advanceI -/

@[simp] theorem State.advanceI_cfg (s : State) (x : Reg) : (s.advanceI x).cfg = s.cfg := rfl
@[simp] theorem State.advanceI_v (s : State) (x : Reg) : (s.advanceI x).v = s.v := rfl
@[simp] theorem State.advanceI_i (s : State) (x : Reg) : (s.advanceI x).i = (bif s.cfg.qMemIncI then s.i + BitVec.ofNat 16 (x.val + 1) else s.i) := rfl
@[simp] theorem State.advanceI_pc (s : State) (x : Reg) : (s.advanceI x).pc = s.pc := rfl
@[simp] theorem State.advanceI_stack (s : State) (x : Reg) : (s.advanceI x).stack = s.stack := rfl
@[simp] theorem State.advanceI_mem (s : State) (x : Reg) : (s.advanceI x).mem = s.mem := rfl
@[simp] theorem State.advanceI_px (s : State) (x : Reg) : (s.advanceI x).px = s.px := rfl
@[simp] theorem State.advanceI_dt (s : State) (x : Reg) : (s.advanceI x).dt = s.dt := rfl
@[simp] theorem State.advanceI_st (s : State) (x : Reg) : (s.advanceI x).st = s.st := rfl
@[simp] theorem State.advanceI_dispChanged (s : State) (x : Reg) : (s.advanceI x).dispChanged = s.dispChanged := rfl
@[simp] theorem State.advanceI_halted (s : State) (x : Reg) : (s.advanceI x).halted = s.halted := rfl
@[simp] theorem State.advanceI_errlog (s : State) (x : Reg) : (s.advanceI x).errlog = s.errlog := rfl
@[simp] theorem State.advanceI_iclk (s : State) (x : Reg) : (s.advanceI x).iclk = s.iclk := rfl
@[simp] theorem State.advanceI_dtAcc (s : State) (x : Reg) : (s.advanceI x).dtAcc = s.dtAcc := rfl
@[simp] theorem State.advanceI_keys (s : State) (x : Reg) : (s.advanceI x).keys = s.keys := rfl
@[simp] theorem State.advanceI_rnd (s : State) (x : Reg) : (s.advanceI x).rnd = s.rnd := rfl
@[simp] theorem State.advanceI_events (s : State) (x : Reg) : (s.advanceI x).events = s.events := rfl
@[simp] theorem State.advanceI_stopped (s : State) (x : Reg) : (s.advanceI x).stopped = s.stopped := rfl
@[simp] theorem State.advanceI_freeDraws (s : State) (x : Reg) : (s.advanceI x).freeDraws = s.freeDraws := rfl

/-! ### memWriteAll: memory alone changes -/

@[simp] theorem State.memWriteAll_cfg (s : State) (a : Nat) (bs : List Byte) : (s.memWriteAll a bs).cfg = s.cfg := by
  induction bs generalizing s a with
  | nil => rfl
  | cons b rest ih => simp [State.memWriteAll, ih]

@[simp] theorem State.memWriteAll_v (s : State) (a : Nat) (bs : List Byte) : (s.memWriteAll a bs).v = s.v := by
  induction bs generalizing s a with
  | nil => rfl
  | cons b rest ih => simp [State.memWriteAll, ih]

@[simp] theorem State.memWriteAll_i (s : State) (a : Nat) (bs : List Byte) : (s.memWriteAll a bs).i = s.i := by
  induction bs generalizing s a with
  | nil => rfl
  | cons b rest ih => simp [State.memWriteAll, ih]

@[simp] theorem State.memWriteAll_pc (s : State) (a : Nat) (bs : List Byte) : (s.memWriteAll a bs).pc = s.pc := by
  induction bs generalizing s a with
  | nil => rfl
  | cons b rest ih => simp [State.memWriteAll, ih]

@[simp] theorem State.memWriteAll_stack (s : State) (a : Nat) (bs : List Byte) : (s.memWriteAll a bs).stack = s.stack := by
  induction bs generalizing s a with
  | nil => rfl
  | cons b rest ih => simp [State.memWriteAll, ih]

@[simp] theorem State.memWriteAll_px (s : State) (a : Nat) (bs : List Byte) : (s.memWriteAll a bs).px = s.px := by
  induction bs generalizing s a with
  | nil => rfl
  | cons b rest ih => simp [State.memWriteAll, ih]

@[simp] theorem State.memWriteAll_dt (s : State) (a : Nat) (bs : List Byte) : (s.memWriteAll a bs).dt = s.dt := by
  induction bs generalizing s a with
  | nil => rfl
  | cons b rest ih => simp [State.memWriteAll, ih]

@[simp] theorem State.memWriteAll_st (s : State) (a : Nat) (bs : List Byte) : (s.memWriteAll a bs).st = s.st := by
  induction bs generalizing s a with
  | nil => rfl
  | cons b rest ih => simp [State.memWriteAll, ih]

@[simp] theorem State.memWriteAll_dispChanged (s : State) (a : Nat) (bs : List Byte) : (s.memWriteAll a bs).dispChanged = s.dispChanged := by
  induction bs generalizing s a with
  | nil => rfl
  | cons b rest ih => simp [State.memWriteAll, ih]

@[simp] theorem State.memWriteAll_halted (s : State) (a : Nat) (bs : List Byte) : (s.memWriteAll a bs).halted = s.halted := by
  induction bs generalizing s a with
  | nil => rfl
  | cons b rest ih => simp [State.memWriteAll, ih]

@[simp] theorem State.memWriteAll_errlog (s : State) (a : Nat) (bs : List Byte) : (s.memWriteAll a bs).errlog = s.errlog := by
  induction bs generalizing s a with
  | nil => rfl
  | cons b rest ih => simp [State.memWriteAll, ih]

@[simp] theorem State.memWriteAll_iclk (s : State) (a : Nat) (bs : List Byte) : (s.memWriteAll a bs).iclk = s.iclk := by
  induction bs generalizing s a with
  | nil => rfl
  | cons b rest ih => simp [State.memWriteAll, ih]

@[simp] theorem State.memWriteAll_dtAcc (s : State) (a : Nat) (bs : List Byte) : (s.memWriteAll a bs).dtAcc = s.dtAcc := by
  induction bs generalizing s a with
  | nil => rfl
  | cons b rest ih => simp [State.memWriteAll, ih]

@[simp] theorem State.memWriteAll_keys (s : State) (a : Nat) (bs : List Byte) : (s.memWriteAll a bs).keys = s.keys := by
  induction bs generalizing s a with
  | nil => rfl
  | cons b rest ih => simp [State.memWriteAll, ih]

@[simp] theorem State.memWriteAll_rnd (s : State) (a : Nat) (bs : List Byte) : (s.memWriteAll a bs).rnd = s.rnd := by
  induction bs generalizing s a with
  | nil => rfl
  | cons b rest ih => simp [State.memWriteAll, ih]

@[simp] theorem State.memWriteAll_events (s : State) (a : Nat) (bs : List Byte) : (s.memWriteAll a bs).events = s.events := by
  induction bs generalizing s a with
  | nil => rfl
  | cons b rest ih => simp [State.memWriteAll, ih]

@[simp] theorem State.memWriteAll_stopped (s : State) (a : Nat) (bs : List Byte) : (s.memWriteAll a bs).stopped = s.stopped := by
  induction bs generalizing s a with
  | nil => rfl
  | cons b rest ih => simp [State.memWriteAll, ih]

@[simp] theorem State.memWriteAll_freeDraws (s : State) (a : Nat) (bs : List Byte) : (s.memWriteAll a bs).freeDraws = s.freeDraws := by
  induction bs generalizing s a with
  | nil => rfl
  | cons b rest ih => simp [State.memWriteAll, ih]

/-! ### Registers and memory read the same after an update of something else -/

@[simp] theorem State.memRead_setV (s : State) (r : Reg) (b : Byte) (k : Nat) : (s.setV r b).memRead k = s.memRead k := rfl
@[simp] theorem State.getV_setI (s : State) (a : Addr) (q : Reg) : (s.setI a).getV q = s.getV q := rfl
@[simp] theorem State.memRead_setI (s : State) (a : Addr) (k : Nat) : (s.setI a).memRead k = s.memRead k := rfl
@[simp] theorem State.getV_setPC (s : State) (a : Addr) (q : Reg) : (s.setPC a).getV q = s.getV q := rfl
@[simp] theorem State.memRead_setPC (s : State) (a : Addr) (k : Nat) : (s.setPC a).memRead k = s.memRead k := rfl
@[simp] theorem State.getV_setDT (s : State) (b : Byte) (q : Reg) : (s.setDT b).getV q = s.getV q := rfl
@[simp] theorem State.memRead_setDT (s : State) (b : Byte) (k : Nat) : (s.setDT b).memRead k = s.memRead k := rfl
@[simp] theorem State.getV_setST (s : State) (b : Byte) (q : Reg) : (s.setST b).getV q = s.getV q := rfl
@[simp] theorem State.memRead_setST (s : State) (b : Byte) (k : Nat) : (s.setST b).memRead k = s.memRead k := rfl
@[simp] theorem State.memRead_setFlag (s : State) (b : Byte) (k : Nat) : (s.setFlag b).memRead k = s.memRead k := rfl
@[simp] theorem State.memRead_setResultAndFlag (s : State) (r : Reg) (b f : Byte) (k : Nat) : (s.setResultAndFlag r b f).memRead k = s.memRead k := rfl
@[simp] theorem State.getV_skipIf (s : State) (c : Bool) (q : Reg) : (s.skipIf c).getV q = s.getV q := rfl
@[simp] theorem State.memRead_skipIf (s : State) (c : Bool) (k : Nat) : (s.skipIf c).memRead k = s.memRead k := rfl
@[simp] theorem State.getV_advancePC (s : State) (q : Reg) : (s.advancePC).getV q = s.getV q := rfl
@[simp] theorem State.memRead_advancePC (s : State) (k : Nat) : (s.advancePC).memRead k = s.memRead k := rfl
@[simp] theorem State.getV_memWrite (s : State) (a : Nat) (b : Byte) (q : Reg) : (s.memWrite a b).getV q = s.getV q := rfl
@[simp] theorem State.getV_push (s : State) (a : Addr) (q : Reg) : (s.push a).getV q = s.getV q := rfl
@[simp] theorem State.memRead_push (s : State) (a : Addr) (k : Nat) : (s.push a).memRead k = s.memRead k := rfl
@[simp] theorem State.getV_dropTop (s : State) (q : Reg) : (s.dropTop).getV q = s.getV q := rfl
@[simp] theorem State.memRead_dropTop (s : State) (k : Nat) : (s.dropTop).memRead k = s.memRead k := rfl
@[simp] theorem State.getV_showGrid (s : State) (g : Grid) (q : Reg) : (s.showGrid g).getV q = s.getV q := rfl
@[simp] theorem State.memRead_showGrid (s : State) (g : Grid) (k : Nat) : (s.showGrid g).memRead k = s.memRead k := rfl
@[simp] theorem State.getV_displayWasRead (s : State) (q : Reg) : (s.displayWasRead).getV q = s.getV q := rfl
@[simp] theorem State.memRead_displayWasRead (s : State) (k : Nat) : (s.displayWasRead).memRead k = s.memRead k := rfl
@[simp] theorem State.getV_delayStep (s : State) (q : Reg) : (s.delayStep).getV q = s.getV q := rfl
@[simp] theorem State.memRead_delayStep (s : State) (k : Nat) : (s.delayStep).memRead k = s.memRead k := rfl
@[simp] theorem State.getV_tickDelay (s : State) (d : Nat) (q : Reg) : (s.tickDelay d).getV q = s.getV q := rfl
@[simp] theorem State.memRead_tickDelay (s : State) (d : Nat) (k : Nat) : (s.tickDelay d).memRead k = s.memRead k := rfl
@[simp] theorem State.getV_tickInstr (s : State) (d : Nat) (q : Reg) : (s.tickInstr d).getV q = s.getV q := rfl
@[simp] theorem State.memRead_tickInstr (s : State) (d : Nat) (k : Nat) : (s.tickInstr d).memRead k = s.memRead k := rfl
@[simp] theorem State.getV_latch (s : State) (k : Word) (b : Byte) (q : Reg) : (s.latch k b).getV q = s.getV q := rfl
@[simp] theorem State.memRead_latch (s : State) (k : Word) (b : Byte) (a : Nat) : (s.latch k b).memRead a = s.memRead a := rfl
@[simp] theorem State.getV_countDraw (s : State) (q : Reg) : (s.countDraw).getV q = s.getV q := rfl
@[simp] theorem State.memRead_countDraw (s : State) (k : Nat) : (s.countDraw).memRead k = s.memRead k := rfl
@[simp] theorem State.getV_setEvents (s : State) (es : List Event) (q : Reg) : (s.setEvents es).getV q = s.getV q := rfl
@[simp] theorem State.memRead_setEvents (s : State) (es : List Event) (k : Nat) : (s.setEvents es).memRead k = s.memRead k := rfl
@[simp] theorem State.getV_setStopped (s : State) (q : Reg) : (s.setStopped).getV q = s.getV q := rfl
@[simp] theorem State.memRead_setStopped (s : State) (k : Nat) : (s.setStopped).memRead k = s.memRead k := rfl
@[simp] theorem State.memRead_loadRegs (s : State) (x : Reg) (k : Nat) : (s.loadRegs x).memRead k = s.memRead k := rfl
@[simp] theorem State.getV_advanceI (s : State) (x : Reg) (q : Reg) : (s.advanceI x).getV q = s.getV q := rfl
@[simp] theorem State.memRead_advanceI (s : State) (x : Reg) (k : Nat) : (s.advanceI x).memRead k = s.memRead k := rfl

@[simp] theorem State.getV_memWriteAll (s : State) (a : Nat) (bs : List Byte) (q : Reg) :
    (s.memWriteAll a bs).getV q = s.getV q := by
  simp [State.getV]

end Sys2Proof.Machine
end

