-- ==== Sys2Proof/Laws/Display.lean ====
section
/-! SUPPORT. The display: a toggle, a sprite row and a sprite, pixel by pixel (45_draw.md R160). -/

namespace Sys2Proof.Machine

theorem Grid.blank_wf (w h : Nat) : Grid.wf w h (Grid.blank w h) := by
  refine ⟨by simp [Grid.blank], fun row hr => ?_⟩
  simp [Grid.blank] at hr
  simp [hr.2]

theorem Grid.pixel_blank (w h x y : Nat) : (Grid.blank w h).pixel x y = false := by
  by_cases hy : y < h <;> by_cases hx : x < w <;> simp [Grid.pixel, Grid.blank, hy, hx]

theorem Grid.toggle_wf {w h : Nat} {g : Grid} (hg : Grid.wf w h g) (x y : Nat) : Grid.wf w h (g.toggle x y) := by
  refine ⟨by simp [Grid.toggle, hg.1], fun row hr => ?_⟩
  obtain ⟨k, hk, rfl⟩ := List.mem_iff_getElem.mp hr
  have hk' : k < g.length := by simpa [Grid.toggle] using hk
  have := hg.2 g[k] (List.getElem_mem hk')
  by_cases e : y = k <;> simp [Grid.toggle, e, this]

/-- A toggle inside the grid inverts its pixel and no other. -/
theorem Grid.pixel_toggle {w h : Nat} {g : Grid} (hg : Grid.wf w h g) {x y : Nat} (hx : x < w) (hy : y < h) (x' y' : Nat) :
    (g.toggle x y).pixel x' y' = (g.pixel x' y' ^^ decide (x' = x ∧ y' = y)) := by
  have hyg : y < g.length := by rw [hg.1]; exact hy
  by_cases e : y' = y
  · subst e
    have hxr : x < (g[y']).length := by rw [hg.2 _ (List.getElem_mem hyg)]; exact hx
    by_cases e' : x' = x
    · subst e'
      simp [Grid.pixel, Grid.toggle, hyg, hxr]
    · simp [Grid.pixel, Grid.toggle, hyg, e', Ne.symm e']
  · simp [Grid.pixel, Grid.toggle, e, Ne.symm e]

theorem spriteBits_getD (b : Byte) (j : Nat) : (spriteBits b).getD j false = (decide (j < 8) && b.getLsbD (7 - j)) := by
  by_cases h : j < 8 <;> simp [spriteBits, h]

@[simp] theorem spriteBits_length (b : Byte) : (spriteBits b).length = 8 := by simp [spriteBits]

theorem drawBits_wf {w h x y : Nat} (bits : List Bool) {d : Grid × Bool} (hd : Grid.wf w h d.1) :
    Grid.wf w h (drawBits w x y bits d).1 := by
  induction bits generalizing x d with
  | nil => exact hd
  | cons b rest ih =>
    rw [drawBits]
    split
    · cases b
      · exact ih hd
      · exact ih (d := (d.1.toggle x y, d.2 || d.1.pixel x y)) (Grid.toggle_wf hd x y)
    · exact hd

theorem drawRows_wf {w h x y : Nat} (rows : List Byte) {d : Grid × Bool} (hd : Grid.wf w h d.1) :
    Grid.wf w h (drawRows w h x y rows d).1 := by
  induction rows generalizing y d with
  | nil => exact hd
  | cons r rest ih =>
    rw [drawRows]
    split
    · exact ih (drawBits_wf _ hd)
    · exact hd

theorem drawSprite_wf {w h : Nat} (x y : Nat) (rows : List Byte) {g : Grid} (hg : Grid.wf w h g) :
    Grid.wf w h (drawSprite w h x y rows g).1 :=
  drawRows_wf rows (d := (g, false)) hg

/-- One sprite row inverts exactly the pixels its set bits fall on, clipped at the width. -/
theorem drawBits_pixel {w h x y : Nat} (hy : y < h) (bits : List Bool) {d : Grid × Bool} (hd : Grid.wf w h d.1)
    (x' y' : Nat) :
    (drawBits w x y bits d).1.pixel x' y' =
      (d.1.pixel x' y' ^^ (decide (y' = y ∧ x ≤ x' ∧ x' < w) && bits.getD (x' - x) false)) := by
  induction bits generalizing x d with
  | nil => simp [drawBits]
  | cons b rest ih =>
    rw [drawBits]
    split
    · rename_i hx
      have hd' : Grid.wf w h (if b then (d.1.toggle x y, d.2 || d.1.pixel x y) else d).1 := by
        cases b
        · exact hd
        · exact Grid.toggle_wf hd x y
      have hp : (if b then (d.1.toggle x y, d.2 || d.1.pixel x y) else d).1.pixel x' y' =
          (d.1.pixel x' y' ^^ (b && decide (x' = x ∧ y' = y))) := by
        cases b
        · simp
        · simpa using Grid.pixel_toggle hd hx hy x' y'
      rw [ih hd', hp, Bool.xor_assoc]
      congr 1
      by_cases e : x' = x
      · subst e
        have h1 : ¬ x' + 1 ≤ x' := by omega
        by_cases ey : y' = y <;> cases b <;> simp [h1, ey, hx]
      · by_cases hlt : x + 1 ≤ x'
        · have e1 : x' - x = (x' - (x + 1)) + 1 := by omega
          have h2 : x ≤ x' := by omega
          rw [e1, List.getD_cons_succ]
          simp [e, hlt, h2]
        · have h2 : ¬ x ≤ x' := by omega
          simp [e, hlt, h2]
    · rename_i hx
      have : ¬ (x ≤ x' ∧ x' < w) := by omega
      simp [this]

/-- One sprite row collides exactly when a set bit falls, unclipped, on a pixel that was on. -/
theorem drawBits_collision {w h x y : Nat} (hy : y < h) (bits : List Bool) {d : Grid × Bool} (hd : Grid.wf w h d.1) :
    (drawBits w x y bits d).2 = true ↔
      d.2 = true ∨ ∃ c, x ≤ c ∧ c < w ∧ bits.getD (c - x) false = true ∧ d.1.pixel c y = true := by
  induction bits generalizing x d with
  | nil => simp [drawBits]
  | cons b rest ih =>
    rw [drawBits]
    split
    · rename_i hx
      have hd' : Grid.wf w h (if b then (d.1.toggle x y, d.2 || d.1.pixel x y) else d).1 := by
        cases b
        · exact hd
        · exact Grid.toggle_wf hd x y
      rw [ih hd']
      have hp : ∀ c, x + 1 ≤ c → (if b then (d.1.toggle x y, d.2 || d.1.pixel x y) else d).1.pixel c y = d.1.pixel c y := by
        intro c hc
        have hne : c ≠ x := by omega
        cases b
        · rfl
        · simp [Grid.pixel_toggle hd hx hy, hne]
      constructor
      · rintro (h1 | ⟨c, h1, h2, h3, h4⟩)
        · cases b
          · exact .inl h1
          · simp only [if_true, Bool.or_eq_true] at h1
            exact h1.imp id fun h1 => ⟨x, Nat.le_refl x, hx, by simp, h1⟩
        · refine .inr ⟨c, by omega, h2, ?_, by rw [← hp c h1]; exact h4⟩
          rw [show c - x = (c - (x + 1)) + 1 by omega, List.getD_cons_succ]
          exact h3
      · rintro (h1 | ⟨c, h1, h2, h3, h4⟩)
        · refine .inl ?_
          cases b <;> simp [h1]
        · by_cases e : c = x
          · subst e
            simp only [Nat.sub_self, List.getD_cons_zero] at h3
            subst h3
            exact .inl (by simp [h4])
          · refine .inr ⟨c, by omega, h2, ?_, by rw [hp c (by omega)]; exact h4⟩
            rw [show c - x = (c - (x + 1)) + 1 by omega, List.getD_cons_succ] at h3
            exact h3
    · rename_i hx
      constructor
      · exact .inl
      · rintro (h1 | ⟨c, h1, h2, -⟩)
        · exact h1
        · omega

/-- Whether a sprite placed at column `x`, row `y` has a set bit at column `c`, row `r`. -/
def spriteCovers (rows : List Byte) (x y c r : Nat) : Bool :=
  decide (x ≤ c ∧ c < x + 8 ∧ y ≤ r) && (rows.getD (r - y) 0).getLsbD (7 - (c - x))

theorem spriteCovers_row {b : Byte} {rest : List Byte} {x y c r : Nat} :
    spriteCovers (b :: rest) x y c r =
      ((decide (r = y ∧ x ≤ c) && (spriteBits b).getD (c - x) false) ^^ spriteCovers rest x (y + 1) c r) := by
  rw [spriteBits_getD]
  by_cases e : r = y
  · subst e
    have h1 : ¬ r + 1 ≤ r := by omega
    by_cases hx : x ≤ c
    · have : c - x < 8 ↔ c < x + 8 := by omega
      simp [spriteCovers, h1, hx, this]
    · simp [spriteCovers, hx]
  · by_cases hy : y + 1 ≤ r
    · have h2 : y ≤ r := by omega
      simp only [spriteCovers, e, hy, h2, show r - y = (r - (y + 1)) + 1 by omega, List.getD_cons_succ]
      simp
    · have h2 : ¬ y ≤ r := by omega
      simp [spriteCovers, e, hy, h2]

/-- A sprite inverts exactly the pixels inside the display that its set bits fall on. -/
theorem drawRows_pixel {w h x y : Nat} (rows : List Byte) {d : Grid × Bool} (hd : Grid.wf w h d.1) (c r : Nat) :
    (drawRows w h x y rows d).1.pixel c r =
      (d.1.pixel c r ^^ (decide (c < w ∧ r < h) && spriteCovers rows x y c r)) := by
  induction rows generalizing y d with
  | nil => simp [drawRows, spriteCovers]
  | cons b rest ih =>
    rw [drawRows]
    split
    · rename_i hy
      rw [ih (drawBits_wf _ hd), drawBits_pixel hy _ hd, Bool.xor_assoc, spriteCovers_row]
      congr 1
      by_cases e : r = y
      · subst e
        by_cases hc : c < w <;> simp [hc, hy]
      · simp [e]
    · rename_i hy
      by_cases hr : r < h
      · have : ¬ y ≤ r := by omega
        simp [spriteCovers, this]
      · simp [hr]

/-- A sprite collides exactly when one of those pixels was on. -/
theorem drawRows_collision {w h x y : Nat} (rows : List Byte) {d : Grid × Bool} (hd : Grid.wf w h d.1) :
    (drawRows w h x y rows d).2 = true ↔
      d.2 = true ∨ ∃ c r, c < w ∧ r < h ∧ spriteCovers rows x y c r = true ∧ d.1.pixel c r = true := by
  induction rows generalizing y d with
  | nil => simp [drawRows, spriteCovers]
  | cons b rest ih =>
    rw [drawRows]
    split
    · rename_i hy
      rw [ih (drawBits_wf _ hd), drawBits_collision hy _ hd]
      have hrow : ∀ c r, y + 1 ≤ r → (drawBits w x y (spriteBits b) d).1.pixel c r = d.1.pixel c r := by
        intro c r hr
        have : r ≠ y := by omega
        simp [drawBits_pixel hy _ hd, this]
      have hcov : ∀ c r, spriteCovers rest x (y + 1) c r = true → y + 1 ≤ r := by
        intro c r hc
        simp only [spriteCovers, Bool.and_eq_true, decide_eq_true_eq] at hc
        exact hc.1.2.2
      constructor
      · rintro ((h1 | ⟨c, h1, h2, h3, h4⟩) | ⟨c, r, h1, h2, h3, h4⟩)
        · exact .inl h1
        · refine .inr ⟨c, y, h2, hy, ?_, h4⟩
          have : spriteCovers rest x (y + 1) c y = false :=
            Bool.eq_false_iff.mpr fun hn => by have := hcov c y hn; omega
          rw [spriteCovers_row, this, h3]; simp [h1]
        · have hr := hcov c r h3
          refine .inr ⟨c, r, h1, h2, ?_, by rw [← hrow c r hr]; exact h4⟩
          have : r ≠ y := by omega
          rw [spriteCovers_row, h3]; simp [this]
      · rintro (h1 | ⟨c, r, h1, h2, h3, h4⟩)
        · exact .inl (.inl h1)
        · rw [spriteCovers_row] at h3
          by_cases e : r = y
          · subst e
            have : spriteCovers rest x (r + 1) c r = false :=
              Bool.eq_false_iff.mpr fun hn => by have := hcov c r hn; omega
            rw [this] at h3
            simp only [true_and, Bool.xor_false, Bool.and_eq_true, decide_eq_true_eq] at h3
            exact .inl (.inr ⟨c, h3.1, h1, h3.2, h4⟩)
          · simp only [e, false_and, decide_false, Bool.false_and, Bool.false_xor] at h3
            exact .inr ⟨c, r, h1, h2, h3, by rw [hrow c r (hcov c r h3)]; exact h4⟩
    · rename_i hy
      constructor
      · exact .inl
      · rintro (h1 | ⟨c, r, -, h2, h3, -⟩)
        · exact h1
        · simp only [spriteCovers, Bool.and_eq_true, decide_eq_true_eq] at h3
          omega

end Sys2Proof.Machine
end

