-- ==== Sys2Proof/Laws/Encoding.lean ====
section
/-! SUPPORT. The fields of a packed word (30_encoding.md R73, R74). -/

namespace Sys2Proof

@[simp] theorem regOf_regBits (r : Reg) : regOf (regBits r) = r := rfl

@[simp] theorem regBits_regOf (b : Nibble) : regBits (regOf b) = b := rfl

/-! Each format bit by bit. -/

theorem packNNN_bit (f : Nibble) (a : Imm12) (k : Nat) :
    (packNNN f a).getLsbD k = if k < 12 then a.getLsbD k else f.getLsbD (k - 12) :=
  BitVec.getLsbD_append

theorem packXNN_bit (f : Nibble) (x : Reg) (b : Byte) (k : Nat) :
    (packXNN f x b).getLsbD k =
      if k < 8 then b.getLsbD k else if k < 12 then (regBits x).getLsbD (k - 8) else f.getLsbD (k - 12) := by
  have h : (packXNN f x b).getLsbD k = if k < 8 then b.getLsbD k else (f ++ regBits x).getLsbD (k - 8) :=
    BitVec.getLsbD_append
  rw [h]
  split
  · rfl
  · rw [BitVec.getLsbD_append]
    by_cases h1 : k < 12
    · simp [h1, show k - 8 < 4 by omega]
    · simp [h1, show ¬ k - 8 < 4 by omega, show k - 8 - 4 = k - 12 by omega]

theorem packXYN_eq (f : Nibble) (x y : Reg) (n : Nibble) : packXYN f x y n = packXNN f x (regBits y ++ n) :=
  BitVec.append_assoc

@[simp] theorem fieldF_packNNN (f : Nibble) (a : Imm12) : fieldF (packNNN f a) = f := by
  refine BitVec.eq_of_getLsbD_eq fun k hk => ?_
  simp only [fieldF, BitVec.getLsbD_extractLsb', packNNN_bit]
  simp [hk]

@[simp] theorem fieldNNN_packNNN (f : Nibble) (a : Imm12) : fieldNNN (packNNN f a) = a := by
  refine BitVec.eq_of_getLsbD_eq fun k hk => ?_
  simp only [fieldNNN, BitVec.getLsbD_extractLsb', packNNN_bit]
  simp [hk]

@[simp] theorem fieldF_packXNN (f : Nibble) (x : Reg) (b : Byte) : fieldF (packXNN f x b) = f := by
  refine BitVec.eq_of_getLsbD_eq fun k hk => ?_
  simp only [fieldF, BitVec.getLsbD_extractLsb', packXNN_bit]
  simp [hk, show ¬ 12 + k < 8 by omega, show ¬ 12 + k < 12 by omega]

@[simp] theorem fieldX_packXNN (f : Nibble) (x : Reg) (b : Byte) : fieldX (packXNN f x b) = regBits x := by
  refine BitVec.eq_of_getLsbD_eq fun k hk => ?_
  simp only [fieldX, BitVec.getLsbD_extractLsb', packXNN_bit]
  simp [hk, show 8 + k < 12 by omega]

@[simp] theorem fieldNN_packXNN (f : Nibble) (x : Reg) (b : Byte) : fieldNN (packXNN f x b) = b := by
  refine BitVec.eq_of_getLsbD_eq fun k hk => ?_
  simp only [fieldNN, BitVec.getLsbD_extractLsb', packXNN_bit]
  simp [hk]

@[simp] theorem fieldF_packXYN (f : Nibble) (x y : Reg) (n : Nibble) : fieldF (packXYN f x y n) = f := by
  rw [packXYN_eq, fieldF_packXNN]

@[simp] theorem fieldX_packXYN (f : Nibble) (x y : Reg) (n : Nibble) : fieldX (packXYN f x y n) = regBits x := by
  rw [packXYN_eq, fieldX_packXNN]

theorem fieldNN_packXYN (f : Nibble) (x y : Reg) (n : Nibble) : fieldNN (packXYN f x y n) = regBits y ++ n := by
  rw [packXYN_eq, fieldNN_packXNN]

theorem fieldN_eq (w : Word) : fieldN w = (fieldNN w).extractLsb' 0 4 := by
  refine BitVec.eq_of_getLsbD_eq fun k hk => ?_
  simp [fieldN, fieldNN, hk]

theorem fieldY_eq (w : Word) : fieldY w = (fieldNN w).extractLsb' 4 4 := by
  refine BitVec.eq_of_getLsbD_eq fun k hk => ?_
  simp [fieldY, fieldNN, hk]

@[simp] theorem fieldY_packXYN (f : Nibble) (x y : Reg) (n : Nibble) : fieldY (packXYN f x y n) = regBits y := by
  rw [fieldY_eq, fieldNN_packXYN]
  exact BitVec.extractLsb'_append_eq_left

@[simp] theorem fieldN_packXYN (f : Nibble) (x y : Reg) (n : Nibble) : fieldN (packXYN f x y n) = n := by
  rw [fieldN_eq, fieldNN_packXYN]
  exact BitVec.extractLsb'_append_eq_right

/-- A word is its high and its low byte. -/
theorem wordOfBytes_split (w : Word) : wordOfBytes (highByte w) (lowByte w) = w := by
  simp only [wordOfBytes, highByte, lowByte]
  ext i hi
  simp only [BitVec.getElem_append, BitVec.getElem_extractLsb']
  split
  · simp [BitVec.getLsbD_eq_getElem hi]
  · rw [show 8 + (i - 8) = i by omega, BitVec.getLsbD_eq_getElem hi]

/-! A word is packed from its own fields, in each format. -/

theorem packXYN_bit (f : Nibble) (x y : Reg) (n : Nibble) (k : Nat) :
    (packXYN f x y n).getLsbD k =
      if k < 4 then n.getLsbD k else if k < 8 then (regBits y).getLsbD (k - 4)
      else if k < 12 then (regBits x).getLsbD (k - 8) else f.getLsbD (k - 12) := by
  have hn : (regBits y ++ n : Byte).getLsbD k = if k < 4 then n.getLsbD k else (regBits y).getLsbD (k - 4) :=
    BitVec.getLsbD_append
  rw [packXYN_eq, packXNN_bit, hn]
  by_cases h4 : k < 4
  · rw [if_pos h4, if_pos h4, if_pos (by omega)]
  · rw [if_neg h4, if_neg h4]

theorem packNNN_fields (w : Word) : packNNN (fieldF w) (fieldNNN w) = w := by
  refine BitVec.eq_of_getLsbD_eq fun k hk => ?_
  rw [packNNN_bit]
  interval_cases k <;> simp [fieldF, fieldNNN]

theorem packXNN_fields (w : Word) : packXNN (fieldF w) (regOf (fieldX w)) (fieldNN w) = w := by
  refine BitVec.eq_of_getLsbD_eq fun k hk => ?_
  rw [packXNN_bit]
  interval_cases k <;> simp [fieldF, fieldX, fieldNN]

theorem packXYN_fields (w : Word) : packXYN (fieldF w) (regOf (fieldX w)) (regOf (fieldY w)) (fieldN w) = w := by
  refine BitVec.eq_of_getLsbD_eq fun k hk => ?_
  rw [packXYN_bit]
  interval_cases k <;> simp [fieldF, fieldX, fieldY, fieldN]

/-! What each mask of the opcode map keeps of a packed word (30_encoding.md R76). -/

theorem nibble_and_ones (f : Nibble) : f &&& 0xF = f := BitVec.and_allOnes

theorem byte_and_ones (b : Byte) : b &&& 0xFF = b := BitVec.and_allOnes

theorem and_zero' {w : Nat} (a : BitVec w) : a &&& 0 = 0 := BitVec.and_zero

theorem packNNN_mask (f : Nibble) (a : Imm12) : packNNN f a &&& 0xF000 = packNNN f 0 := by
  have h : packNNN f a &&& packNNN 0xF 0 = packNNN (f &&& 0xF) (a &&& 0) := BitVec.and_append
  rw [nibble_and_ones, and_zero'] at h
  exact h

theorem packXNN_and (f g : Nibble) (x y : Reg) (b c : Byte) :
    packXNN f x b &&& packXNN g y c = packXNN (f &&& g) (regOf (regBits x &&& regBits y)) (b &&& c) := by
  refine BitVec.eq_of_getLsbD_eq fun k _ => ?_
  simp only [BitVec.getLsbD_and, packXNN_bit, regBits_regOf]
  by_cases h8 : k < 8
  · simp only [h8, if_true]
  · by_cases h12 : k < 12 <;> simp only [h8, h12, if_true, if_false]

theorem reg_and_zero (x : Reg) : regOf (regBits x &&& regBits 0) = 0 := by
  rw [show regBits 0 = 0 from rfl, and_zero']; rfl

theorem packXNN_maskF (f : Nibble) (x : Reg) (b : Byte) : packXNN f x b &&& 0xF000 = packXNN f 0 0 := by
  have h := packXNN_and f 0xF x 0 b 0
  rw [nibble_and_ones, reg_and_zero, and_zero'] at h
  exact h

theorem packXNN_maskFNN (f : Nibble) (x : Reg) (b : Byte) : packXNN f x b &&& 0xF0FF = packXNN f 0 b := by
  have h := packXNN_and f 0xF x 0 b 0xFF
  rw [nibble_and_ones, reg_and_zero, byte_and_ones] at h
  exact h

theorem packXYN_maskF (f : Nibble) (x y : Reg) (n : Nibble) : packXYN f x y n &&& 0xF000 = packXYN f 0 0 0 := by
  rw [packXYN_eq, packXNN_maskF, packXYN_eq]
  exact congrArg (packXNN f 0) (by decide)

theorem packXYN_maskFN (f : Nibble) (x y : Reg) (n : Nibble) : packXYN f x y n &&& 0xF00F = packXYN f 0 0 n := by
  have h := packXNN_and f 0xF x 0 (regBits y ++ n) ((0 : Nibble) ++ (0xF : Nibble))
  have e : (regBits y ++ n : BitVec (4 + 4)) &&& ((0 : Nibble) ++ (0xF : Nibble)) = (regBits y &&& 0) ++ (n &&& 0xF) :=
    BitVec.and_append
  rw [nibble_and_ones, reg_and_zero] at h
  rw [packXYN_eq, packXYN_eq]
  refine h.trans (congrArg (packXNN f 0) ?_)
  rw [nibble_and_ones, and_zero'] at e
  exact e

end Sys2Proof
end

