-- ==== Sys2Proof/Laws/Memory.lean ====
section
/-! SUPPORT. Memory: a read after a write, and the canonical form (20_memory.md R41, R42, R43). -/

namespace Sys2Proof.Machine

/-- The addresses of a canonical memory rise strictly. -/
abbrev Memory.sorted (m : Memory) : Prop := (m.map Prod.fst).Pairwise (· < ·)

theorem Memory.sorted_cons {c : Host.Cell} {cs : Memory} :
    Memory.sorted (c :: cs) ↔ (∀ d ∈ cs, c.1 < d.1) ∧ Memory.sorted cs := by
  simp [Memory.sorted, List.pairwise_cons]

theorem Memory.get_of_below (m : Memory) (a : Nat) (h : ∀ d ∈ m, a < d.1) : Memory.get m a = Config.blankByte := by
  induction m with
  | nil => rfl
  | cons c cs ih =>
    have hc : a < c.1 := h c (by simp)
    rw [Memory.get, if_neg (by omega)]
    exact ih fun d hd => h d (by simp [hd])

/-- A read after a write: the written byte at its address, every other byte as before. -/
theorem Memory.get_set (m : Memory) (hm : Memory.sorted m) (a b : Nat) (v : Byte) :
    Memory.get (Memory.set m a v) b = if b = a then v else Memory.get m b := by
  induction m with
  | nil =>
    by_cases hv : v = Config.blankByte <;> by_cases hb : b = a <;> simp [Memory.set, Memory.get, hv, hb]
  | cons c cs ih =>
    obtain ⟨hlt, hs⟩ := Memory.sorted_cons.mp hm
    have below : ∀ e, e ≤ c.1 → Memory.get cs e = Config.blankByte := fun e he =>
      Memory.get_of_below cs e fun d hd => by have := hlt d hd; omega
    rw [Memory.set]
    split
    · rename_i hac
      by_cases hv : v = Config.blankByte
      · by_cases hb : b = a
        · subst hb; simp [hv, Memory.get, Nat.ne_of_lt hac, below b (by omega)]
        · simp [hv, hb]
      · by_cases hb : b = a <;> simp [hv, Memory.get, hb]
    · split
      · rename_i hac
        by_cases hv : v = Config.blankByte
        · by_cases hb : b = a
          · subst hb; simp [hv, below b (by omega)]
          · have : b ≠ c.1 := by omega
            simp [hv, hb, Memory.get, this]
        · by_cases hb : b = a
          · simp [hv, Memory.get, hb]
          · have : b ≠ c.1 := by omega
            simp [hv, hb, Memory.get, this]
      · rename_i h1 h2
        rw [Memory.get, Memory.get, ih hs]
        by_cases hb : b = c.1
        · have : b ≠ a := by omega
          simp [hb]; intro h; omega
        · simp [hb]

theorem Memory.mem_set {m : Memory} {a : Nat} {v : Byte} {d : Host.Cell} (h : d ∈ Memory.set m a v) :
    d ∈ m ∨ (d = (a, v) ∧ v ≠ Config.blankByte) := by
  induction m with
  | nil =>
    by_cases hv : v = Config.blankByte <;> simp [Memory.set, hv] at h
    exact .inr ⟨h, hv⟩
  | cons c cs ih =>
    rw [Memory.set] at h
    split at h
    · split at h
      · exact .inl h
      · rcases List.mem_cons.mp h with h | h
        · exact .inr ⟨h, ‹_›⟩
        · exact .inl h
    · split at h
      · split at h
        · exact .inl (List.mem_cons_of_mem _ h)
        · rcases List.mem_cons.mp h with h | h
          · exact .inr ⟨h, ‹_›⟩
          · exact .inl (List.mem_cons_of_mem _ h)
      · rcases List.mem_cons.mp h with h | h
        · exact .inl (h ▸ List.mem_cons_self)
        · exact (ih h).imp (List.mem_cons_of_mem _) id

theorem Memory.set_sorted (m : Memory) (hm : Memory.sorted m) (a : Nat) (v : Byte) : Memory.sorted (Memory.set m a v) := by
  induction m with
  | nil => by_cases hv : v = Config.blankByte <;> simp [Memory.set, Memory.sorted, hv]
  | cons c cs ih =>
    obtain ⟨hlt, hs⟩ := Memory.sorted_cons.mp hm
    rw [Memory.set]
    split
    · split
      · exact hm
      · refine Memory.sorted_cons.mpr ⟨fun d hd => ?_, hm⟩
        rcases List.mem_cons.mp hd with hd | hd
        · subst hd; assumption
        · have := hlt d hd; simp only; omega
    · split
      · split
        · exact hs
        · exact Memory.sorted_cons.mpr ⟨fun d hd => by have := hlt d hd; simp only; omega, hs⟩
      · refine Memory.sorted_cons.mpr ⟨fun d hd => ?_, ih hs⟩
        rcases Memory.mem_set hd with hd | ⟨hd, -⟩
        · exact hlt d hd
        · subst hd; simp only; omega

/-- Every write keeps the canonical form. -/
theorem Memory.set_wf {size : Nat} {m : Memory} (hm : Memory.wf size m) {a : Nat} (ha : a < size) (v : Byte) :
    Memory.wf size (Memory.set m a v) := by
  refine ⟨Memory.set_sorted m hm.1 a v, fun c hc => ?_⟩
  rcases Memory.mem_set hc with hc | ⟨hc, hv⟩
  · exact hm.2 c hc
  · subst hc; exact ⟨hv, ha⟩

theorem State.memWrite_wf {s : State} (hm : Memory.wf s.cfg.memSize s.mem) (a : Nat) (v : Byte) :
    Memory.wf s.cfg.memSize (s.memWrite a v).mem := by
  rw [State.memWrite_mem]
  split
  · exact Memory.set_wf hm ‹_› v
  · exact hm

theorem State.memWriteAll_wf {s : State} (hm : Memory.wf s.cfg.memSize s.mem) (a : Nat) (bs : List Byte) :
    Memory.wf s.cfg.memSize (s.memWriteAll a bs).mem := by
  induction bs generalizing s a with
  | nil => exact hm
  | cons b rest ih => exact ih (s := s.memWrite a b) (State.memWrite_wf hm a b) (a + 1)

/-- `MemRead` after `MemWrite` (20_memory.md R41, R42). -/
theorem State.memRead_memWrite {s : State} (hm : Memory.wf s.cfg.memSize s.mem) (a b : Nat) (v : Byte) :
    (s.memWrite a v).memRead b = if b = a ∧ a < s.cfg.memSize then v else s.memRead b := by
  simp only [State.memRead, State.memWrite_mem, State.memWrite_cfg]
  by_cases ha : a < s.cfg.memSize
  · by_cases hb : b = a
    · subst hb; simp [ha, Memory.get_set _ hm.1]
    · simp [ha, hb, Memory.get_set _ hm.1]
  · simp [ha]

/-- `MemRead` after a write of several bytes: each byte stands alone (20_memory.md R42). -/
theorem State.memRead_memWriteAll {s : State} (hm : Memory.wf s.cfg.memSize s.mem) (a b : Nat) (bs : List Byte) :
    (s.memWriteAll a bs).memRead b =
      if a ≤ b ∧ b < a + bs.length ∧ b < s.cfg.memSize then bs.getD (b - a) 0 else s.memRead b := by
  induction bs generalizing s a with
  | nil => simp [State.memWriteAll]; omega
  | cons v rest ih =>
    rw [State.memWriteAll, ih (State.memWrite_wf hm a v), State.memRead_memWrite hm]
    simp only [State.memWrite_cfg, List.length_cons]
    by_cases h : b = a
    · subst h
      by_cases h2 : b < s.cfg.memSize <;> simp [h2, Nat.not_succ_le_self]
    · by_cases h3 : a + 1 ≤ b
      · have e : b - a = (b - (a + 1)) + 1 := by omega
        have e2 : a + 1 + rest.length = a + (rest.length + 1) := by omega
        have h4 : a ≤ b := by omega
        simp only [h3, h4, e2, true_and, h, false_and, if_false]
        rw [e]
        simp
      · have h4 : ¬ a ≤ b := by omega
        simp [h3, h4, h]

/-- Reading depends on memory and its size alone. -/
theorem State.memRead_congr {s t : State} (hm : t.mem = s.mem) (hc : t.cfg = s.cfg) (a : Nat) : t.memRead a = s.memRead a := by
  simp [State.memRead, hm, hc]

/-- Every out of bounds address reads 0 (20_memory.md R43). -/
theorem State.memRead_of_size_le (s : State) {a : Nat} (h : s.cfg.memSize ≤ a) : s.memRead a = 0 := by
  simp [State.memRead, Nat.not_lt.mpr h]

@[simp] theorem State.memReadAll_length (s : State) (a n : Nat) : (s.memReadAll a n).length = n := by
  simp [State.memReadAll]

theorem State.memReadAll_getD (s : State) (a n k : Nat) :
    (s.memReadAll a n).getD k 0 = if k < n then s.memRead (a + k) else 0 := by
  by_cases h : k < n <;> simp [State.memReadAll, h]

end Sys2Proof.Machine
end

