-- ==== Sys2Proof/Laws/Registers.lean ====
section
/-! SUPPORT. What a register reads as after each update (10_state.md R10), and the other operand laws. -/

namespace Sys2Proof.Machine

theorem State.getV_eq (s : State) (r : Reg) : s.getV r = s.v[r.val] := rfl

theorem State.getV_setV (s : State) (r q : Reg) (b : Byte) : (s.setV r b).getV q = if q = r then b else s.getV q := by
  simp only [State.getV_eq, State.setV_v, Vector.getElem_set]
  by_cases h : q = r
  · simp [h]
  · rw [if_neg (fun e => h (Fin.ext e.symm)), if_neg h]

@[simp] theorem State.getV_setV_same (s : State) (r : Reg) (b : Byte) : (s.setV r b).getV r = b := by
  simp [State.getV_setV]

theorem State.getV_setV_of_ne (s : State) {r q : Reg} (b : Byte) (h : q ≠ r) : (s.setV r b).getV q = s.getV q := by
  simp [State.getV_setV, h]

theorem State.getV_setFlag (s : State) (q : Reg) (b : Byte) : (s.setFlag b).getV q = if q = vF then b else s.getV q :=
  s.getV_setV vF q b

/-- VF is written last: the flag wins over the result when the destination is VF (10_state.md R13). -/
theorem State.getV_setResultAndFlag (s : State) (x q : Reg) (b f : Byte) :
    (s.setResultAndFlag x b f).getV q = if q = vF then f else if q = x then b else s.getV q := by
  simp [State.setResultAndFlag, State.getV_setFlag, State.getV_setV]

theorem State.getV_loadRegs (s : State) (x q : Reg) :
    (s.loadRegs x).getV q = if q ≤ x then s.memRead (s.i.toNat + q.val) else s.getV q := by
  simp [State.getV_eq, State.loadRegs, State.effAddr]

/-- Two states with the same register file read the same registers. -/
theorem State.getV_congr {s t : State} (h : t.v = s.v) (r : Reg) : t.getV r = s.getV r := by
  simp [State.getV_eq, h]

/-- A register file is its registers. -/
theorem State.v_ext {s t : State} (h : ∀ r, t.getV r = s.getV r) : t.v = s.v := by
  refine Vector.ext fun k hk => ?_
  exact h ⟨k, hk⟩

@[simp] theorem State.regsUpTo_length (s : State) (x : Reg) : (s.regsUpTo x).length = x.val + 1 := by
  have h : x.val + 1 ≤ 16 := x.isLt
  rw [State.regsUpTo, List.length_take, Vector.length_toList]
  exact Nat.min_eq_left h

theorem State.regsUpTo_getD (s : State) (x q : Reg) (h : q ≤ x) : (s.regsUpTo x).getD q.val 0 = s.getV q := by
  have hq : q.val < x.val + 1 := by have := Fin.le_def.mp h; omega
  simp [State.regsUpTo, State.getV_eq, hq]

end Sys2Proof.Machine
end

