-- ==== Sys2Proof/Laws/Exec.lean ====
section
/-! SUPPORT. What the shared operations and the cycle can do: the stack, the Timers, the fields no instruction touches, and
the one inversion of fetch, decode and dispatch. -/

namespace Sys2Proof.Machine

/-! ## Stack -/

@[simp] theorem State.top_push (s : State) (a : Addr) : (s.push a).top = a := by simp [State.top]

@[simp] theorem State.dropTop_push_stack (s : State) (a : Addr) : (s.push a).dropTop.stack = s.stack := by simp

theorem State.top_of_append {s : State} {l : List Addr} {a : Addr} (h : s.stack = l ++ [a]) : s.top = a := by
  simp [State.top, h]

theorem State.top_of_empty {s : State} (h : s.stack = []) : s.top = 0 := by simp [State.top, h]

/-! ## Timers -/

theorem timerStep_le {f v : Nat} (h : v ≤ f) : timerStep f v ≤ f := by
  unfold timerStep; split <;> omega

/-- A full period: one step, and the accumulated delta is 0 (60_exceptions.md R213). -/
theorem Timer.tick_of_full {f p d : Nat} {t : Timer} (h : p ≤ t.acc + d) :
    Timer.tick f p t d = (⟨timerStep f t.value, 0⟩, true) := if_pos h

/-- Less than a period: the delta accumulates (60_exceptions.md R213). -/
theorem Timer.tick_of_part {f p d : Nat} {t : Timer} (h : t.acc + d < p) :
    Timer.tick f p t d = (⟨t.value, t.acc + d⟩, false) := if_neg (Nat.not_le.mpr h)

/-- After a tick call the accumulated delta is below the period (60_exceptions.md R211). -/
theorem Timer.tick_acc_lt {f p : Nat} (hp : 1 ≤ p) (t : Timer) (d : Nat) : (Timer.tick f p t d).1.acc < p := by
  unfold Timer.tick; split <;> simp only <;> omega

theorem Timer.tick_value_le {f p : Nat} {t : Timer} (h : t.value ≤ f) (d : Nat) : (Timer.tick f p t d).1.value ≤ f := by
  unfold Timer.tick; split
  · exact timerStep_le h
  · exact h

/-! ## What no instruction touches -/

/-- The fields no instruction changes: the configuration, the event records, the Timer dividers and the inputs. -/
structure State.SameSurroundings (s t : State) : Prop where
  cfg : t.cfg = s.cfg
  halted : t.halted = s.halted
  errlog : t.errlog = s.errlog
  iclk : t.iclk = s.iclk
  dtAcc : t.dtAcc = s.dtAcc
  keys : t.keys = s.keys
  rnd : t.rnd = s.rnd
  events : t.events = s.events
  stopped : t.stopped = s.stopped
  freeDraws : t.freeDraws = s.freeDraws

/-- Every instruction leaves those fields as they are. -/
theorem exec_sameSurroundings {i : Instr} {s t : State} (h : exec i s = .next t) : s.SameSurroundings t := by
  cases i <;>
    simp only [exec,
    execCls, execRet, execJp, execCall, execSeImm, execSneImm, execSeReg, execLdImm, execAddImm,
    execLdReg, execOrReg, execAndReg, execXorReg, execAddReg, execSub, execShr, execSubn, execShl,
    execSneReg, execLdI, execJpV0, execRnd, execDrw, execSkp, execSknp, execLdVxDt, execLdVxK,
    execLdDtVx, execLdStVx, execAddI, execLdF, execLdB, execLdMemVx, execLdVxMem,
      Host.Outcome.next.injEq] at h <;>
    subst h <;> constructor <;> first | (simp; done) | (split <;> simp)

/-! ## Fetch, decode, dispatch -/

/-- Everything the instruction cycle can do (30_encoding.md R71, R72, R78). -/
theorem fetchAndRun_cases (s : State) :
    (s.fetchInBounds = false ∧ fetchAndRun s = .next { s with halted := some (.fetchOutOfBounds s.pc) }) ∨
    (s.fetchInBounds = true ∧ ∃ i, decodeWord s.fetchWord = .ok i ∧ fetchAndRun s = exec i s.advancePC) ∨
    (s.fetchInBounds = true ∧ ∃ e, decodeWord s.fetchWord = .error e ∧
      fetchAndRun s = .next { s.advancePC with errlog := s.errlog ++ [⟨s.pc, s.fetchWord⟩] }) := by
  unfold fetchAndRun State.fetch
  cases hb : s.fetchInBounds
  · exact .inl ⟨rfl, rfl⟩
  · cases hd : decodeWord s.fetchWord with
    | ok i => exact .inr (.inl ⟨rfl, i, rfl, by simp [dispatchWord, hd]⟩)
    | error e =>
      refine .inr (.inr ⟨rfl, e, rfl, ?_⟩)
      have : s.pc + 2 - 2 = s.pc := BitVec.add_sub_cancel s.pc 2
      simp only [if_true, dispatchWord, hd]
      simp only [State.raise, State.advancePC_pc, this]
      rfl

end Sys2Proof.Machine
end

