-- ==== Sys2Proof/Laws/PerInstr.lean ====
section
/-! SUPPORT. Statements for all instructions, one lemma per constructor. -/

namespace Sys2Proof

/-- The word the encoder gives a well-formed instruction matches the instruction's own row of the opcode map
(30_encoding.md R76). -/
def Laws.EncodesItsRow.Statement (i : Instr) : Prop :=
  i.wellFormed = true → i.row.matchesWord (encode i) = true

theorem Laws.EncodesItsRow.cls : Laws.EncodesItsRow.Statement .cls := by
  intro _; decide

theorem Laws.EncodesItsRow.ret : Laws.EncodesItsRow.Statement .ret := by
  intro _; decide

theorem Laws.EncodesItsRow.jp (nnn : Imm12) : Laws.EncodesItsRow.Statement (.jp nnn) :=
  fun _ => decide_eq_true (packNNN_mask _ _)

theorem Laws.EncodesItsRow.call (nnn : Imm12) : Laws.EncodesItsRow.Statement (.call nnn) :=
  fun _ => decide_eq_true (packNNN_mask _ _)

theorem Laws.EncodesItsRow.seImm (x : Reg) (nn : Byte) : Laws.EncodesItsRow.Statement (.seImm x nn) :=
  fun _ => decide_eq_true (packXNN_maskF _ _ _)

theorem Laws.EncodesItsRow.sneImm (x : Reg) (nn : Byte) : Laws.EncodesItsRow.Statement (.sneImm x nn) :=
  fun _ => decide_eq_true (packXNN_maskF _ _ _)

theorem Laws.EncodesItsRow.seReg (x : Reg) (y : Reg) : Laws.EncodesItsRow.Statement (.seReg x y) :=
  fun _ => decide_eq_true (packXYN_maskFN _ _ _ _)

theorem Laws.EncodesItsRow.ldImm (x : Reg) (nn : Byte) : Laws.EncodesItsRow.Statement (.ldImm x nn) :=
  fun _ => decide_eq_true (packXNN_maskF _ _ _)

theorem Laws.EncodesItsRow.addImm (x : Reg) (nn : Byte) : Laws.EncodesItsRow.Statement (.addImm x nn) :=
  fun _ => decide_eq_true (packXNN_maskF _ _ _)

theorem Laws.EncodesItsRow.ldReg (x : Reg) (y : Reg) : Laws.EncodesItsRow.Statement (.ldReg x y) :=
  fun _ => decide_eq_true (packXYN_maskFN _ _ _ _)

theorem Laws.EncodesItsRow.orReg (x : Reg) (y : Reg) : Laws.EncodesItsRow.Statement (.orReg x y) :=
  fun _ => decide_eq_true (packXYN_maskFN _ _ _ _)

theorem Laws.EncodesItsRow.andReg (x : Reg) (y : Reg) : Laws.EncodesItsRow.Statement (.andReg x y) :=
  fun _ => decide_eq_true (packXYN_maskFN _ _ _ _)

theorem Laws.EncodesItsRow.xorReg (x : Reg) (y : Reg) : Laws.EncodesItsRow.Statement (.xorReg x y) :=
  fun _ => decide_eq_true (packXYN_maskFN _ _ _ _)

theorem Laws.EncodesItsRow.addReg (x : Reg) (y : Reg) : Laws.EncodesItsRow.Statement (.addReg x y) :=
  fun _ => decide_eq_true (packXYN_maskFN _ _ _ _)

theorem Laws.EncodesItsRow.sub (x : Reg) (y : Reg) : Laws.EncodesItsRow.Statement (.sub x y) :=
  fun _ => decide_eq_true (packXYN_maskFN _ _ _ _)

theorem Laws.EncodesItsRow.shr (x : Reg) (y : Reg) : Laws.EncodesItsRow.Statement (.shr x y) :=
  fun _ => decide_eq_true (packXYN_maskFN _ _ _ _)

theorem Laws.EncodesItsRow.subn (x : Reg) (y : Reg) : Laws.EncodesItsRow.Statement (.subn x y) :=
  fun _ => decide_eq_true (packXYN_maskFN _ _ _ _)

theorem Laws.EncodesItsRow.shl (x : Reg) (y : Reg) : Laws.EncodesItsRow.Statement (.shl x y) :=
  fun _ => decide_eq_true (packXYN_maskFN _ _ _ _)

theorem Laws.EncodesItsRow.sneReg (x : Reg) (y : Reg) : Laws.EncodesItsRow.Statement (.sneReg x y) :=
  fun _ => decide_eq_true (packXYN_maskFN _ _ _ _)

theorem Laws.EncodesItsRow.ldI (nnn : Imm12) : Laws.EncodesItsRow.Statement (.ldI nnn) :=
  fun _ => decide_eq_true (packNNN_mask _ _)

theorem Laws.EncodesItsRow.jpV0 (nnn : Imm12) : Laws.EncodesItsRow.Statement (.jpV0 nnn) :=
  fun _ => decide_eq_true (packNNN_mask _ _)

theorem Laws.EncodesItsRow.rnd (x : Reg) (nn : Byte) : Laws.EncodesItsRow.Statement (.rnd x nn) :=
  fun _ => decide_eq_true (packXNN_maskF _ _ _)

theorem Laws.EncodesItsRow.drw (x : Reg) (y : Reg) (n : Nibble) : Laws.EncodesItsRow.Statement (.drw x y n) :=
  fun _ => decide_eq_true (packXYN_maskF _ _ _ _)

theorem Laws.EncodesItsRow.skp (x : Reg) : Laws.EncodesItsRow.Statement (.skp x) :=
  fun _ => decide_eq_true (packXNN_maskFNN _ _ _)

theorem Laws.EncodesItsRow.sknp (x : Reg) : Laws.EncodesItsRow.Statement (.sknp x) :=
  fun _ => decide_eq_true (packXNN_maskFNN _ _ _)

theorem Laws.EncodesItsRow.ldVxDt (x : Reg) : Laws.EncodesItsRow.Statement (.ldVxDt x) :=
  fun _ => decide_eq_true (packXNN_maskFNN _ _ _)

theorem Laws.EncodesItsRow.ldVxK (x : Reg) : Laws.EncodesItsRow.Statement (.ldVxK x) :=
  fun _ => decide_eq_true (packXNN_maskFNN _ _ _)

theorem Laws.EncodesItsRow.ldDtVx (x : Reg) : Laws.EncodesItsRow.Statement (.ldDtVx x) :=
  fun _ => decide_eq_true (packXNN_maskFNN _ _ _)

theorem Laws.EncodesItsRow.ldStVx (x : Reg) : Laws.EncodesItsRow.Statement (.ldStVx x) :=
  fun _ => decide_eq_true (packXNN_maskFNN _ _ _)

theorem Laws.EncodesItsRow.addI (x : Reg) : Laws.EncodesItsRow.Statement (.addI x) :=
  fun _ => decide_eq_true (packXNN_maskFNN _ _ _)

theorem Laws.EncodesItsRow.ldF (x : Reg) : Laws.EncodesItsRow.Statement (.ldF x) :=
  fun _ => decide_eq_true (packXNN_maskFNN _ _ _)

theorem Laws.EncodesItsRow.ldB (x : Reg) : Laws.EncodesItsRow.Statement (.ldB x) :=
  fun _ => decide_eq_true (packXNN_maskFNN _ _ _)

theorem Laws.EncodesItsRow.ldMemVx (x : Reg) : Laws.EncodesItsRow.Statement (.ldMemVx x) :=
  fun _ => decide_eq_true (packXNN_maskFNN _ _ _)

theorem Laws.EncodesItsRow.ldVxMem (x : Reg) : Laws.EncodesItsRow.Statement (.ldVxMem x) :=
  fun _ => decide_eq_true (packXNN_maskFNN _ _ _)

end Sys2Proof
end

