-- ==== Sys2Proof/Laws/Step.lean ====
section
/-! SUPPORT. Everything one step can do, said once: an instruction cycle, an event that runs none, or a reset. -/

namespace Sys2Proof.Machine

theorem step_of_event {s : State} {e : Event} {rest : List Event} (he : s.events = e :: rest) :
    step s = handleEvent e (s.setEvents rest) := by simp only [step, he]

theorem step_of_no_event {s : State} (he : s.events = []) : step s = idleStep s := by simp only [step, he]

theorem instrStep_of_running {s : State} (h : s.halted = none) (k : Word) (b : Byte) :
    instrStep k b s = fetchAndRun (s.latch k b) := by simp [instrStep, h]

theorem instrStep_of_halted {s : State} {c : HaltCause} (h : s.halted = some c) (k : Word) (b : Byte) :
    instrStep k b s = .next s := by simp [instrStep, h]

/-- A Timer after at most one tick call. -/
def TicksTo (frequency period : Nat) (t t' : Timer) : Prop := t' = t ∨ ∃ d, t' = (Timer.tick frequency period t d).1

/-- What a step without an instruction or a reset does to DT and its accumulated delta: nothing, a delay tick, or a tick
call of the delay Timer. -/
def DelayChange (s t : State) : Prop :=
  (t.dt = s.dt ∧ t.dtAcc = s.dtAcc) ∨
  (t.dt = s.delayStep.dt ∧ t.dtAcc = s.dtAcc ∧ ∃ rest, s.events = .delayTick :: rest) ∨
  ∃ d rest, s.events = .tickDelayTimer d :: rest ∧ t.dt = (s.tickDelay d).dt ∧ t.dtAcc = (s.tickDelay d).dtAcc

/-- The step runs one instruction cycle from `u`: `s` with this step's inputs, and the instruction Timer ticked. -/
def RunsFrom (s u : State) : Prop :=
  s.halted = none ∧ TicksTo s.cfg.iclkFreq s.cfg.iclkPeriod s.iclk u.iclk ∧
  u = { s with iclk := u.iclk, keys := u.keys, rnd := u.rnd, events := u.events, freeDraws := u.freeDraws }

/-- The step is an event that runs no instruction: it changes the Timers, disp_changed and the inputs at most. -/
def RunsNothing (s t : State) : Prop :=
  TicksTo s.cfg.iclkFreq s.cfg.iclkPeriod s.iclk t.iclk ∧ DelayChange s t ∧
  t = { s with
    iclk := t.iclk, dt := t.dt, dtAcc := t.dtAcc, dispChanged := t.dispChanged, events := t.events,
    stopped := t.stopped }

theorem instrStep_cases {s u : State} (hi : TicksTo s.cfg.iclkFreq s.cfg.iclkPeriod s.iclk u.iclk)
    (hu : u = { s with iclk := u.iclk, events := u.events, freeDraws := u.freeDraws })
    (hf : s.halted ≠ none → u.freeDraws = s.freeDraws) (k : Word) (b : Byte) :
    (∃ v, RunsFrom s v ∧ instrStep k b u = fetchAndRun v) ∨ (∃ t, RunsNothing s t ∧ instrStep k b u = .next t) := by
  have hh : u.halted = s.halted := by rw [hu]
  cases h : s.halted with
  | none => exact .inl ⟨u.latch k b, ⟨h, hi, by rw [hu]; rfl⟩, instrStep_of_running (hh.trans h) k b⟩
  | some c =>
    have hd := hf (by simp [h])
    refine .inr ⟨u, ⟨hi, .inl ⟨by rw [hu], by rw [hu]⟩, ?_⟩, instrStep_of_halted (hh.trans h) k b⟩
    rw [hd] at hu
    rw [hu]

/-- Everything a step can do: an instruction cycle, an event that runs none, or a reset. -/
def StepShape (s : State) : Prop :=
  (∃ u, RunsFrom s u ∧ step s = fetchAndRun u) ∨ (∃ t, RunsNothing s t ∧ step s = .next t) ∨
  ∃ font prog rest, s.events = .reset font prog :: rest ∧ step s = (s.setEvents rest).construct font prog

theorem StepShape.quiet {s t : State} (e : step s = .next t) (h : RunsNothing s t) : StepShape s :=
  .inr (.inl ⟨t, h, e⟩)

theorem StepShape.run {s u : State} {k : Word} {b : Byte} (e : step s = instrStep k b u)
    (hi : TicksTo s.cfg.iclkFreq s.cfg.iclkPeriod s.iclk u.iclk)
    (hu : u = { s with iclk := u.iclk, events := u.events, freeDraws := u.freeDraws })
    (hf : s.halted ≠ none → u.freeDraws = s.freeDraws) : StepShape s := by
  obtain ⟨v, h, e'⟩ | ⟨t, h, e'⟩ := instrStep_cases hi hu hf k b
  · exact .inl ⟨v, h, e.trans e'⟩
  · exact .quiet (e.trans e') h

theorem step_cases (s : State) : StepShape s := by
  have same : ∀ rest, RunsNothing s (s.setEvents rest) := fun rest => ⟨.inl rfl, .inl ⟨rfl, rfl⟩, rfl⟩
  cases he : s.events with
  | nil =>
    have h := step_of_no_event he
    unfold idleStep at h
    split at h
    · exact .quiet h ⟨.inl rfl, .inl ⟨rfl, rfl⟩, rfl⟩
    · rename_i hn
      refine .run (u := s.countDraw) h (.inl rfl) rfl fun hh => ?_
      exact absurd (by cases hc : s.halted <;> simp [hc] at hh ⊢) hn
  | cons e rest =>
    have h := step_of_event he
    cases e with
    | instrTick k b =>
      simp only [handleEvent] at h
      split at h
      · exact .quiet h (same rest)
      · exact .run (u := s.setEvents rest) h (.inl rfl) rfl fun _ => rfl
    | delayTick =>
      simp only [handleEvent] at h
      split at h
      · exact .quiet h (same rest)
      · exact .quiet (t := (s.setEvents rest).delayStep) h ⟨.inl rfl, .inr (.inl ⟨rfl, rfl, rest, he⟩), rfl⟩
    | tickInstrTimer d k b =>
      simp only [handleEvent, tickInstrAndRun] at h
      split at h
      · exact .quiet h (same rest)
      · split at h
        · exact .run (u := (s.setEvents rest).tickInstr d) h (.inr ⟨d, rfl⟩) rfl fun _ => rfl
        · exact .quiet (t := (s.setEvents rest).tickInstr d) h ⟨.inr ⟨d, rfl⟩, .inl ⟨rfl, rfl⟩, rfl⟩
    | tickDelayTimer d =>
      simp only [handleEvent] at h
      split at h
      · exact .quiet h (same rest)
      · exact .quiet (t := (s.setEvents rest).tickDelay d) h ⟨.inl rfl, .inr (.inr ⟨d, rest, he, rfl, rfl⟩), rfl⟩
    | driver d k b =>
      simp only [handleEvent] at h
      split at h
      · exact .quiet h (same rest)
      · exact .quiet h ⟨.inl rfl, .inl ⟨rfl, rfl⟩, rfl⟩
    | dispRead => exact .quiet (t := (s.setEvents rest).displayWasRead) h ⟨.inl rfl, .inl ⟨rfl, rfl⟩, rfl⟩
    | stop => exact .quiet (t := (s.setEvents rest).setStopped) h ⟨.inl rfl, .inl ⟨rfl, rfl⟩, rfl⟩
    | reset font prog => exact .inr (.inr ⟨font, prog, rest, he, h⟩)

end Sys2Proof.Machine
end

