-- ==== Sys2Proof/Tests/Slice0.lean ====
section
/-! SUPPORT. Tests. Expected values are the vectors of 95_test_vectors.md (each named T-…) or words written out from the bit
patterns of spec/opcode_table.json; then the witnesses: for each statement with hypotheses, a case that meets them all. -/

open Sys2Proof Sys2Proof.Machine

namespace Sys2Proof.Tests

/-! ## Well-formedness: each check refuses an ill-formed term -/

theorem test_legal_canonical : Config.canonical.legal = true := by decide
theorem test_legal_smallest_and_largest :
    { Config.canonical with
      memSize := 2, dispW := 1, dispH := 1, dtFreq := 1, iclkFreq := 1, iclkPeriod := 1, dclkPeriod := 1 : Config }.legal = true ∧
    { Config.canonical with memSize := 65536, dtFreq := 255 : Config }.legal = true := by decide
theorem test_illegal_memSize :
    { Config.canonical with memSize := 1 : Config }.legal = false ∧
    { Config.canonical with memSize := 65537 : Config }.legal = false := by decide
theorem test_illegal_display :
    { Config.canonical with dispW := 0 : Config }.legal = false ∧
    { Config.canonical with dispH := 0 : Config }.legal = false := by decide
theorem test_illegal_dtFreq :
    { Config.canonical with dtFreq := 0 : Config }.legal = false ∧
    { Config.canonical with dtFreq := 256 : Config }.legal = false := by decide
theorem test_illegal_iclkFreq : { Config.canonical with iclkFreq := 0 : Config }.legal = false := by decide
theorem test_illegal_periods :
    { Config.canonical with iclkPeriod := 0 : Config }.legal = false ∧
    { Config.canonical with dclkPeriod := 0 : Config }.legal = false := by decide
theorem test_memory_wf_refuses :
    ¬ Memory.wf 16 [(3, 1), (3, 2)] ∧ ¬ Memory.wf 16 [(4, 1), (3, 2)] ∧ ¬ Memory.wf 16 [(3, 0)] ∧ ¬ Memory.wf 16 [(16, 1)] := by
  decide
theorem test_grid_wf_refuses : ¬ Grid.wf 2 1 [[true]] ∧ ¬ Grid.wf 1 2 [[true]] := by decide
/-- Every operand at its extreme values is well-formed: there is no ill-formed instruction (30_encoding.md R75). -/
theorem test_wellFormed_extremes :
    (Instr.drw 0 15 15).wellFormed = true ∧ (Instr.jp 0xFFF).wellFormed = true ∧ (Instr.rnd 15 0xFF).wellFormed = true := by
  decide

/-! ## Decoding: a word for every constructor, bits F X Y N from the bit pattern of its row -/

theorem test_decode_flow :
    decodeWord 0b0000_0000_1110_0000 = .ok .cls ∧ decodeWord 0b0000_0000_1110_1110 = .ok .ret ∧
    decodeWord 0b0001_1010_1011_1100 = .ok (.jp 0xABC) ∧ decodeWord 0b0010_0011_0000_0001 = .ok (.call 0x301) := by decide
theorem test_decode_skip :
    decodeWord 0b0011_0001_0100_0010 = .ok (.seImm 1 0x42) ∧ decodeWord 0b0100_0001_0100_0011 = .ok (.sneImm 1 0x43) ∧
    decodeWord 0b0101_0001_0010_0000 = .ok (.seReg 1 2) ∧ decodeWord 0b1001_0001_0010_0000 = .ok (.sneReg 1 2) := by decide
theorem test_decode_immediate :
    decodeWord 0b0110_1010_0111_1111 = .ok (.ldImm 10 0x7F) ∧
    decodeWord 0b0111_0001_0000_0101 = .ok (.addImm 1 0x05) := by decide
theorem test_decode_alu_plain :
    decodeWord 0b1000_1010_1011_0000 = .ok (.ldReg 10 11) ∧ decodeWord 0b1000_1010_1011_0001 = .ok (.orReg 10 11) ∧
    decodeWord 0b1000_1010_1011_0010 = .ok (.andReg 10 11) ∧ decodeWord 0b1000_1010_1011_0011 = .ok (.xorReg 10 11) := by decide
theorem test_decode_alu_flag :
    decodeWord 0b1000_1010_1011_0100 = .ok (.addReg 10 11) ∧ decodeWord 0b1000_0001_0010_0101 = .ok (.sub 1 2) ∧
    decodeWord 0b1000_0001_0010_0110 = .ok (.shr 1 2) ∧ decodeWord 0b1000_0001_0010_0111 = .ok (.subn 1 2) ∧
    decodeWord 0b1000_0001_0010_1110 = .ok (.shl 1 2) := by decide
theorem test_decode_index :
    decodeWord 0b1010_0010_1111_0000 = .ok (.ldI 0x2F0) ∧ decodeWord 0b1011_0010_1111_0000 = .ok (.jpV0 0x2F0) ∧
    decodeWord 0b1100_0011_0000_1111 = .ok (.rnd 3 0x0F) ∧ decodeWord 0b1111_0001_0001_1110 = .ok (.addI 1) := by decide
/-- T-Z1, T-Z7. -/
theorem test_decode_draw :
    decodeWord 0b1101_0001_0010_0101 = .ok (.drw 1 2 5) ∧ decodeWord 0b1101_0001_0010_0000 = .ok (.drw 1 2 0) := by decide
theorem test_decode_key_timer :
    decodeWord 0b1110_0010_1001_1110 = .ok (.skp 2) ∧ decodeWord 0b1110_0010_1010_0001 = .ok (.sknp 2) ∧
    decodeWord 0b1111_0011_0000_1010 = .ok (.ldVxK 3) ∧ decodeWord 0b1111_0100_0000_0111 = .ok (.ldVxDt 4) ∧
    decodeWord 0b1111_0100_0001_0101 = .ok (.ldDtVx 4) ∧ decodeWord 0b1111_0100_0001_1000 = .ok (.ldStVx 4) := by decide
theorem test_decode_font_memory :
    decodeWord 0b1111_0010_0010_1001 = .ok (.ldF 2) ∧ decodeWord 0b1111_0101_0011_0011 = .ok (.ldB 5) ∧
    decodeWord 0b1111_0010_0101_0101 = .ok (.ldMemVx 2) ∧ decodeWord 0b1111_0010_0110_0101 = .ok (.ldVxMem 2) := by decide
/-- The decoder rejects a word under its own name. -/
def rejects (w : Word) : Bool :=
  match decodeWord w with
  | .ok _ => false
  | .error e => decide (e = .unrecognized w)

/-- T-Z4, T-Z5, T-Z6: a word of every unrecognized class is rejected. -/
theorem test_decode_rejects :
    ([0x00E1, 0x0000, 0x0123, 0x5121, 0x9AB3, 0x812F, 0x8128, 0xE19F, 0xE1A2, 0xF100, 0xF130, 0xF175, 0xF156] : List Word).all
      rejects = true := by decide
theorem test_decode_truncated : decodeBytes [] = .error .truncated ∧ decodeBytes [0x12] = .error .truncated := by decide
theorem test_decodeTableWord :
    decodeTableWord 16 0xD125 = some (.drw 1 2 5) ∧ decodeTableWord 16 0x00EE = some .ret ∧ decodeTableWord 16 0x5121 = none := by
  decide
/-- The opcode map has 34 rows, all different (30_encoding.md R76). -/
theorem test_opcodeMap_has_34_rows : opcodeMap.length = 34 ∧ opcodeMap.Nodup := by decide

/-! ## Meanings: one tick from the reset state, with registers, I, configuration, memory as the vector gives them -/

/-- The reset state with some registers, I and some bytes of memory set. -/
def start (regs : List (Reg × Byte)) (i : Addr := 0) (bytes : List (Nat × Byte) := []) : State :=
  let s : State := { regs.foldl (fun s p => s.setV p.1 p.2) State.reset with i := i }
  bytes.foldl (fun s p => s.memWrite p.1 p.2) s

/-- The same machine with its four compatibility flags set. -/
def flagsOn (s : State) : State :=
  { s with cfg := { s.cfg with qShiftAssign := true, qJumpVx := true, qIndexOvfFlag := true, qMemIncI := true } }

/-- One pixel more, toggled. -/
def withPixel (x y : Nat) (s : State) : State := { s with px := s.px.toggle x y }

/-- What one step leaves, looked at through a function. -/
def nextOf {α : Type} (s : State) (f : State → α) : Option α :=
  match step s with
  | .next t => some (f t)
  | _ => none

/-- What one instruction tick of a word leaves, looked at through a function. -/
def after {α : Type} (w : Nat) (s : State) (f : State → α) : Option α := nextOf (s.withFetchWord 16 w) f

/-- PC. -/
def pcOf (s : State) : Addr := s.pc

/-- T-F1. -/
theorem test_cls : after 0x00E0 (withPixel 0 0 (withPixel 63 31 (start [(15, 1)])))
    (fun t => (t.px.pixel 0 0, t.px.pixel 63 31, t.dispChanged, t.getV 15)) = some (false, false, true, 1) := by decide
/-- T-F3. -/
theorem test_ret : after 0x00EE { start [] with stack := [0x0202, 0x0306] } (fun t => (t.pc, t.stack)) =
    some (0x0306, [0x0202]) := by decide
/-- T-F4. -/
theorem test_ret_empty : after 0x00EE (start []) (fun t => (t.pc, t.stack)) = some (0, []) := by decide
/-- T-F5. -/
theorem test_jp : after 0x1ABC (start []) pcOf = some 0x0ABC := by decide
/-- T-F2. -/
theorem test_call : after 0x2300 (start []) (fun t => (t.pc, t.stack)) = some (0x0300, [0x0202]) := by decide
/-- T-Q1, T-Q2. -/
theorem test_seImm :
    after 0x3142 (start [(1, 0x42)]) pcOf = some 0x0204 ∧ after 0x3143 (start [(1, 0x42)]) pcOf = some 0x0202 := by decide
/-- T-Q3, T-Q4. -/
theorem test_sneImm :
    after 0x4142 (start [(1, 0x42)]) pcOf = some 0x0202 ∧ after 0x4143 (start [(1, 0x42)]) pcOf = some 0x0204 := by decide
/-- T-Q5, T-Q6. -/
theorem test_seReg :
    after 0x5120 (start [(1, 7), (2, 7)]) pcOf = some 0x0204 ∧
    after 0x5120 (start [(1, 7), (2, 8)]) pcOf = some 0x0202 := by decide
/-- T-Q7, T-Q8. -/
theorem test_sneReg :
    after 0x9120 (start [(1, 7), (2, 7)]) pcOf = some 0x0202 ∧
    after 0x9120 (start [(1, 7), (2, 8)]) pcOf = some 0x0204 := by decide
/-- T-Q12: with 65536 bytes the skip at 0xFFFC wraps to 0. -/
theorem test_skip_wraps :
    after 0x3000 { start [] with pc := 0xFFFC, cfg := { Config.canonical with memSize := 65536 } } pcOf = some 0 := by decide
/-- T-I1. -/
theorem test_ldImm : after 0x6A7F (start []) (fun t => t.getV 10) = some 0x7F := by decide
/-- T-I4. -/
theorem test_addImm : after 0x7101 (start [(1, 0xFF)]) (fun t => (t.getV 1, t.getV 15)) = some (0, 0) := by decide
/-- T-I7. -/
theorem test_addImm_VF : after 0x7F02 (start [(15, 0xFF)]) (fun t => t.getV 15) = some 0x01 := by decide
/-- T-A1. -/
theorem test_ldReg : after 0x8120 (start [(2, 0x33), (15, 1)]) (fun t => (t.getV 1, t.getV 15)) = some (0x33, 1) := by decide
/-- T-A2. -/
theorem test_orReg : after 0x8121 (start [(1, 0xF0), (2, 0x0F), (15, 1)]) (fun t => (t.getV 1, t.getV 15)) = some (0xFF, 1) := by
  decide
/-- T-A3. -/
theorem test_andReg : after 0x8122 (start [(1, 0xF3), (2, 0x3F)]) (fun t => t.getV 1) = some 0x33 := by decide
/-- T-A4. -/
theorem test_xorReg : after 0x8123 (start [(1, 0xFF), (2, 0x0F)]) (fun t => t.getV 1) = some 0xF0 := by decide
/-- T-A5. -/
theorem test_addReg : after 0x8124 (start [(1, 0xC8), (2, 0x64)]) (fun t => (t.getV 1, t.getV 15)) = some (0x2C, 1) := by decide
/-- T-A5a, T-A5b. -/
theorem test_addReg_VF :
    after 0x8F14 (start [(15, 0xF0), (1, 0x20)]) (fun t => t.getV 15) = some 1 ∧
    after 0x81F4 (start [(1, 0x10), (15, 5)]) (fun t => (t.getV 1, t.getV 15)) = some (0x15, 0) := by decide
/-- T-S6 (the source's own example), T-A10. -/
theorem test_sub :
    after 0x8125 (start [(1, 5), (2, 3)]) (fun t => (t.getV 1, t.getV 15)) = some (2, 1) ∧
    after 0x8125 (start [(1, 3), (2, 5)]) (fun t => (t.getV 1, t.getV 15)) = some (0xFE, 0) ∧
    after 0x8125 (start [(1, 0x77), (2, 0x77)]) (fun t => (t.getV 1, t.getV 15)) = some (0, 1) := by decide
/-- T-A10b. -/
theorem test_sub_VF : after 0x8F15 (start [(15, 3), (1, 5)]) (fun t => t.getV 15) = some 0 := by decide
/-- T-A12, T-A13. -/
theorem test_shr :
    after 0x8126 (start [(1, 5), (2, 0x0A)]) (fun t => (t.getV 1, t.getV 15)) = some (2, 1) ∧
    after 0x8126 (flagsOn (start [(1, 5), (2, 0x0A)])) (fun t => (t.getV 1, t.getV 15)) = some (5, 0) := by decide
/-- T-A14b. -/
theorem test_shr_from_VF : after 0x81F6 (flagsOn (start [(15, 3)])) (fun t => (t.getV 1, t.getV 15)) = some (1, 1) := by decide
/-- T-A11. -/
theorem test_subn :
    after 0x8127 (start [(1, 3), (2, 5)]) (fun t => (t.getV 1, t.getV 15)) = some (2, 1) ∧
    after 0x8127 (start [(1, 5), (2, 3)]) (fun t => (t.getV 1, t.getV 15)) = some (0xFE, 0) := by decide
/-- T-A16, T-A17. -/
theorem test_shl :
    after 0x812E (start [(1, 0x81), (2, 0x40)]) (fun t => (t.getV 1, t.getV 15)) = some (2, 1) ∧
    after 0x812E (flagsOn (start [(1, 0x81), (2, 0x40)])) (fun t => (t.getV 1, t.getV 15)) = some (0x80, 0) := by decide
/-- T-X1. -/
theorem test_ldI : after 0xA2F0 (start [] 0xFFFF) (fun t => t.i) = some 0x02F0 := by decide
/-- T-X2, T-X6. -/
theorem test_addI :
    after 0xF11E (start [(1, 3), (15, 7)] 0x0FFE) (fun t => (t.i, t.getV 15)) = some (0x1001, 7) ∧
    after 0xF11E (start [(1, 1)] 0xFFFF) (fun t => (t.i, t.getV 15)) = some (0, 0) := by decide
/-- T-X3, T-X5, T-X7. -/
theorem test_addI_flag :
    after 0xF11E (flagsOn (start [(1, 3), (15, 7)] 0x0FFE)) (fun t => (t.i, t.getV 15)) = some (0x1001, 1) ∧
    after 0xF11E (flagsOn (start [(1, 0xFF)] 0x0F00)) (fun t => (t.i, t.getV 15)) = some (0x0FFF, 0) ∧
    after 0xFF1E (flagsOn (start [(15, 0x20)] 0x0FF0)) (fun t => (t.i, t.getV 15)) = some (0x1010, 1) := by decide
/-- T-X8, T-X9. -/
theorem test_jpV0 :
    after 0xB2F0 (start [(0, 4), (2, 0x10)]) pcOf = some 0x02F4 ∧
    after 0xB2F0 (flagsOn (start [(0, 4), (2, 0x10)])) pcOf = some 0x0300 := by decide
/-- T-X10. -/
theorem test_jpV0_unmasked : after 0xBFFF (start [(0, 0xFF)]) pcOf = some 0x10FE := by decide
/-- T-X11, T-X12. -/
theorem test_rnd :
    after 0xC30F { start [] with rnd := 0xA7 } (fun t => t.getV 3) = some 0x07 ∧
    after 0xC300 { start [] with rnd := 0xA7 } (fun t => t.getV 3) = some 0 := by decide
/-- T-D4, T-D7: clip at the right edge; collision. -/
theorem test_drw :
    after 0xD011 (start [(0, 62)] 0x300 [(0x300, 0xFF)])
      (fun t => (t.px.pixel 62 0, t.px.pixel 63 0, t.px.pixel 0 0, t.getV 15)) = some (true, true, false, 0) ∧
    after 0xD011 (withPixel 1 0 (start [] 0x300 [(0x300, 0xC0)]))
      (fun t => (t.px.pixel 0 0, t.px.pixel 1 0, t.getV 15)) = some (true, false, 1) := by decide
/-- T-S5, the source's own example: 10 x 10, the two rows at column 1, row 5, all 100 pixels. -/
theorem test_drawSprite_example :
    drawSprite 10 10 1 5 [0b11001100, 0b00110011] (Grid.blank 10 10) =
      (List.replicate 5 (List.replicate 10 false) ++
        [[false, true, true, false, false, true, true, false, false, false],
         [false, false, false, true, true, false, false, true, true, false]] ++
        List.replicate 3 (List.replicate 10 false), false) := by decide
/-- T-E1, T-E2, T-E5. -/
theorem test_skp :
    after 0xE29E { start [(2, 5)] with keys := 0x0020 } pcOf = some 0x0204 ∧
    after 0xE29E { start [(2, 4)] with keys := 0x0020 } pcOf = some 0x0202 ∧
    after 0xE29E { start [(2, 0x15)] with keys := 0xFFFF } pcOf = some 0x0202 := by decide
/-- T-E3, T-E4, T-E6. -/
theorem test_sknp :
    after 0xE2A1 { start [(2, 5)] with keys := 0x0020 } pcOf = some 0x0202 ∧
    after 0xE2A1 { start [(2, 4)] with keys := 0x0020 } pcOf = some 0x0204 ∧
    after 0xE2A1 { start [(2, 0x15)] with keys := 0xFFFF } pcOf = some 0x0204 := by decide
/-- T-E7, T-E8, T-E9. -/
theorem test_ldVxK :
    after 0xF30A (start [(3, 0x99)]) (fun t => (t.pc, t.getV 3)) = some (0x0200, 0x99) ∧
    after 0xF30A { start [] with keys := 0x0204 } (fun t => (t.pc, t.getV 3)) = some (0x0202, 2) ∧
    after 0xF30A { start [] with keys := 0x8000 } (fun t => (t.pc, t.getV 3)) = some (0x0202, 15) := by decide
/-- T-E11. -/
theorem test_ldVxDt : after 0xF407 { start [] with dt := 0x1E } (fun t => t.getV 4) = some 0x1E := by decide
/-- T-E12. -/
theorem test_ldDtVx : after 0xF415 (start [(4, 0xFF)]) (fun t => t.dt) = some 0xFF := by decide
/-- T-E14. -/
theorem test_ldStVx : after 0xF418 (start [(4, 8)]) (fun t => t.st) = some 8 := by decide
/-- T-B1, T-B2, T-B3. -/
theorem test_ldF :
    after 0xF229 (start [(2, 0x0A)]) (fun t => t.i) = some 0x0082 ∧
    after 0xF229 (start [(2, 0x1A)]) (fun t => t.i) = some 0x0082 ∧
    after 0xF229 (start [(2, 0x0F)]) (fun t => t.i) = some 0x009B := by decide
/-- T-B4, T-B5. -/
theorem test_ldB :
    after 0xF533 (start [(5, 0x9C)] 0x300) (fun t => (t.memReadAll 0x300 4, t.i)) = some ([1, 5, 6, 0], 0x300) ∧
    after 0xF533 (start [(5, 0xFF)] 0xFFF) (fun t => (t.memReadAll 0xFFE 4, t.errlog)) = some ([0, 2, 0, 0], []) := by decide
/-- T-S7 (the source's own example). -/
theorem test_ldMemVx :
    after 0xF255 (start [(0, 0x11), (1, 0x22), (2, 0x33), (3, 0x44)] 0x300) (fun t => (t.memReadAll 0x300 4, t.i)) =
      some ([0x11, 0x22, 0x33, 0], 0x300) ∧
    after 0xF255 (flagsOn (start [(0, 0x11), (1, 0x22), (2, 0x33), (3, 0x44)] 0x300)) (fun t => (t.memReadAll 0x300 4, t.i)) =
      some ([0x11, 0x22, 0x33, 0], 0x303) := by decide
/-- T-B8, T-B12. -/
theorem test_ldVxMem :
    after 0xF265 (start [(3, 0x44)] 0x300 [(0x300, 0x11), (0x301, 0x22), (0x302, 0x33)])
      (fun t => (t.getV 0, t.getV 1, t.getV 2, t.getV 3, t.i)) = some (0x11, 0x22, 0x33, 0x44, 0x300) ∧
    after 0xF265 (start [(0, 0xEE), (1, 0xEE), (2, 0xEE)] 0xFFF [(0xFFF, 0x77)])
      (fun t => (t.getV 0, t.getV 1, t.getV 2)) = some (0x77, 0, 0) := by decide
/-- T-B13. -/
theorem test_ldVxMem_wraps_I : after 0xFF65 (flagsOn (start [(9, 1)] 0xFFF8)) (fun t => (t.getV 9, t.i)) = some (0, 8) := by decide

/-! ## Events and the environment -/

/-- T-U1. -/
theorem test_unrecognized : after 0x0000 (start []) (fun t => (t.pc, t.errlog, t.halted)) =
    some (0x0202, [⟨0x0200, 0⟩], none) := by decide
/-- T-Z8, T-Z9, T-U4: 0xFFE fetches; 0xFFF and 0x1000 halt. -/
theorem test_fetch_bounds :
    nextOf { start [] with pc := 0xFFE, events := [.instrTick 0 0] } (fun t => (t.pc, t.halted)) = some (0x1000, none) ∧
    nextOf { start [] with pc := 0xFFF, events := [.instrTick 0 0] } (fun t => (t.pc, t.halted)) =
      some (0xFFF, some (.fetchOutOfBounds 0xFFF)) ∧
    nextOf { start [] with pc := 0x1000, events := [.instrTick 0 0] } (fun t => (t.pc, t.halted)) =
      some (0x1000, some (.fetchOutOfBounds 0x1000)) := by decide
/-- T-Z10: an odd PC. -/
theorem test_fetch_odd : after 0x6107 { start [] with pc := 0x201 } (fun t => (t.getV 1, t.pc)) = some (7, 0x203) := by decide
/-- T-E13. -/
theorem test_delayTick :
    nextOf { start [] with dt := 1, events := [.delayTick] } (fun t => t.dt) = some 0 ∧
    nextOf { start [] with dt := 0, events := [.delayTick] } (fun t => t.dt) = some 60 := by decide
/-- T-S3: one period, five periods, less than one period, and the rest of it. -/
theorem test_timer_tick :
    Timer.tick 60 100 ⟨7, 0⟩ 100 = (⟨6, 0⟩, true) ∧ Timer.tick 60 100 ⟨0, 0⟩ 100 = (⟨60, 0⟩, true) ∧
    Timer.tick 60 100 ⟨7, 0⟩ 500 = (⟨6, 0⟩, true) ∧ Timer.tick 60 100 ⟨7, 0⟩ 40 = (⟨7, 40⟩, false) ∧
    Timer.tick 60 100 ⟨7, 40⟩ 60 = (⟨6, 0⟩, true) := by decide
/-- T-S1. -/
theorem test_memory_bounds :
    State.reset.memRead 0x1000 = 0 ∧ State.reset.memRead 0xFFFF = 0 ∧ State.reset.memWrite 0x1000 0xAB = State.reset ∧
    (State.reset.memWriteAll 0xFFF [0x11, 0x22]).mem = [(0xFFF, 0x11)] := by decide
/-- Writing the value an unlisted byte reads as removes its entry. -/
theorem test_memory_canonical : ((State.reset.memWrite 5 1).memWrite 5 0).mem = [] := by decide
/-- T-S2. -/
theorem test_stack :
    ((State.reset.push 0x0ABC).top, (State.reset.push 0x0ABC).dropTop.stack, State.reset.top) = (0x0ABC, [], 0) := by decide
/-- 70_reset_and_hazards.md R232: the program over the font. -/
theorem test_reset_event :
    nextOf { start [(1, 9)] with
        cfg := { Config.canonical with fontBase := 0x1FF }, events := [.reset (some [1, 2]) (some [3])] }
      (fun t => (t.getV 1, t.pc, t.memReadAll 0x1FF 3)) = some (0, 0x200, [1, 3, 0]) := by decide
/-- 60_exceptions.md R203. -/
theorem test_load_failure : step { State.reset with events := [.reset none (some [])] } = .fault .loadFailure := by rfl
/-- withFetchWord runs its word as the first instruction after reset, and also from a PC with nothing to fetch. -/
theorem test_withFetchWord :
    after 0x6A7F State.reset (fun t => t.getV 10) = some 0x7F ∧
    after 0x6A7F { State.reset with pc := 0xFFFF } (fun t => (t.getV 10, t.pc)) = some (0x7F, 2) := by decide
theorem test_reset_memory_wf : Memory.wf State.reset.cfg.memSize State.reset.mem := by decide

/-! ## Witnesses: for each statement with hypotheses, values that meet them all -/

theorem reset_inv : State.reset.Inv := ⟨by decide, by decide, by decide, by decide, by decide, by decide⟩

/-- An engine with a tick at the front of its events, at a PC. -/
def ticking (pc : Addr) : State := { State.reset with pc := pc, events := [.instrTick 3 5, .delayTick] }

/-- Its tick is next. -/
theorem ticking_comes (pc : Addr) :
    TickComes (ticking pc) { ticking pc with events := [.delayTick], keys := 3, rnd := 5 } :=
  ⟨rfl, rfl, .inl ⟨3, 5, [.delayTick], rfl, rfl⟩⟩

/-- An engine with no event pending takes a tick with free inputs. -/
theorem idle_comes : TickComes State.reset
    { State.reset with keys := Config.freeKeys 0, rnd := Config.freeRandom 0, freeDraws := 1 } := ⟨rfl, rfl, .inr ⟨rfl, rfl⟩⟩

theorem witness_DecodeOfEncodeIsTheInstruction : (Instr.drw 15 15 15).wellFormed = true := by decide
theorem witness_EncodeOfDecodeIsTheWord : decodeWord 0x8FFE = .ok (.shl 15 15) := by decide
theorem witness_DecoderFollowsTheOpcodeMap :
    decodeWord 0xF265 = .ok (.ldVxMem 2) ∧ decodeWord 0xF266 = .error (.unrecognized 0xF266) := by decide
/-- One word of each of the six classes, and its neighbour that decodes. -/
theorem witness_UnrecognizedWordsAreTheListedClasses :
    ([0x00E1, 0x5001, 0x8008, 0x9001, 0xE09F, 0xF008] : List Word).all rejects = true ∧
    ([0x00E0, 0x5000, 0x8007, 0x9000, 0xE09E, 0xF007] : List Word).any rejects = false := by decide
/-- With an event and without one; the last word that fits is at 0xFFE. -/
theorem witness_StepRunsTheDecodedInstruction :
    (∃ s', TickComes ((ticking 0xFFE).memWrite 0xFFE 0x12) s') ∧ (0xFFE : Addr).toNat + 1 < State.reset.cfg.memSize ∧
    decodeWord (((ticking 0xFFE).memWrite 0xFFE 0x12).memRead 0xFFE ++ ((ticking 0xFFE).memWrite 0xFFE 0x12).memRead 0xFFF) =
      .ok (.jp 0x200) ∧
    (∃ s', TickComes (start [] 0 [(0x200, 0x12)]) s') ∧
    decodeWord ((start [] 0 [(0x200, 0x12)]).memRead 0x200 ++ (start [] 0 [(0x200, 0x12)]).memRead 0x201) = .ok (.jp 0x200) :=
  ⟨⟨_, rfl, rfl, .inl ⟨3, 5, [.delayTick], rfl, rfl⟩⟩, by decide, by decide, ⟨_, rfl, rfl, .inr ⟨rfl, rfl⟩⟩, by decide⟩
theorem witness_UnrecognizedWordIsLoggedAndSkipped :
    (∃ s', TickComes State.reset s') ∧ State.reset.pc.toNat + 1 < State.reset.cfg.memSize ∧
    decodeWord (State.reset.memRead 0x200 ++ State.reset.memRead 0x201) = .error (.unrecognized 0) :=
  ⟨⟨_, idle_comes⟩, by decide, by decide⟩
/-- The first PC that has no whole word, and the first outside memory. -/
theorem witness_FetchOutOfBoundsHalts :
    (∃ s', TickComes (ticking 0xFFF) s') ∧ State.reset.cfg.memSize ≤ (ticking 0xFFF).pc.toNat + 1 ∧
    (∃ s', TickComes (ticking 0x1000) s') ∧ State.reset.cfg.memSize ≤ (ticking 0x1000).pc.toNat + 1 :=
  ⟨⟨_, ticking_comes _⟩, by decide, ⟨_, ticking_comes _⟩, by decide⟩
/-- A halted engine whose next event is a tick, and one whose DT a delay tick changes. -/
theorem witness_HaltedEngineKeepsEverythingButDelayTime :
    let s : State := { ticking 0xFFF with halted := some (.fetchOutOfBounds 0xFFF) }
    let u : State := { s with events := [.delayTick] }
    (s.resetNext = false ∧ ∃ t, step s = .next t) ∧ u.resetNext = false ∧ ∃ t, step u = .next t ∧ t.dt = 60 :=
  ⟨⟨rfl, _, rfl⟩, rfl, _, rfl, rfl⟩
theorem witness_ErrlogOnlyGrowsByOneRecord :
    (ticking 0x200).resetNext = false ∧ ∃ t, step (ticking 0x200) = .next t ∧ t.errlog = [⟨0x200, 0⟩] := ⟨rfl, _, rfl, rfl⟩
theorem witness_StepKeepsTheConfiguration : ∃ t, step (ticking 0x200) = .next t := ⟨_, rfl⟩
theorem witness_OnlyAnUnreadableImageFaults :
    step { State.reset with events := [.reset (some []) none, .stop] } = .fault .loadFailure ∧
    (nextOf { State.reset with events := [.reset (some []) (some [])] } pcOf).isSome = true := ⟨rfl, by decide⟩
/-- The smallest legal configuration. -/
theorem witness_ResetStateMeetsTheInvariant :
    { Config.canonical with
      memSize := 2, dispW := 1, dispH := 1, dtFreq := 1, iclkFreq := 1, iclkPeriod := 1, dclkPeriod := 1 : Config }.legal = true := by
  decide
theorem witness_StepKeepsTheInvariant : State.reset.Inv ∧ ∃ t, step State.reset = .next t := ⟨reset_inv, _, rfl⟩
/-- The wrap and the decrement. -/
theorem witness_DelayStepWrapsFromZeroToFrequency :
    let s : State := { State.reset with events := [.delayTick] }
    s.events = .delayTick :: [] ∧ s.stopped = false ∧ s.cfg.dtFreq ≤ 255 ∧ s.dt.toNat = 0 ∧
    ({ s with dt := 1 } : State).dt.toNat ≠ 0 ∧ (60 : Nat) ≤ 60 := by decide
/-- A delta of one period, and one of less, for each Timer. -/
theorem witness_TickMakesAtMostOneStep :
    let s : State := State.reset
    s.stopped = false ∧ s.cfg.dtFreq ≤ 255 ∧
    s.cfg.dclkPeriod ≤ s.dtAcc + 16666666 ∧ s.dtAcc + 16666665 < s.cfg.dclkPeriod ∧
    s.cfg.iclkPeriod ≤ s.iclk.acc + 1000000000 ∧ s.iclk.acc + 999999999 < s.cfg.iclkPeriod ∧
    ({ s with events := [.tickDelayTimer 16666666] } : State).events = [.tickDelayTimer 16666666] ∧
    ({ s with events := [.tickInstrTimer 999999999 0 0] } : State).events = [.tickInstrTimer 999999999 0 0] := by decide
/-- Both orders. -/
theorem witness_DriverFeedsBothTimersTheSameDelta :
    let s : State := { State.reset with events := [.driver 7 1 2] }
    let u : State := { s with cfg := { s.cfg with tickOrder := .delayFirst } }
    nextOf s (fun t => t.events) = some [.tickInstrTimer 7 1 2, .tickDelayTimer 7] ∧
    nextOf u (fun t => t.events) = some [.tickDelayTimer 7, .tickInstrTimer 7 1 2] := by decide
theorem witness_DisplayReadClearsTheChangedFlag :
    nextOf { State.reset with dispChanged := true, events := [.dispRead] } (fun t => t.dispChanged) = some false := by decide
/-- The stop itself, no event, and an event of each kind that is ended. -/
theorem witness_StopEndsTheDeliveryOfTicks :
    nextOf { State.reset with events := [.stop] } (fun t => t.stopped) = some true ∧
    ({ State.reset with stopped := true } : State).events = [] ∧
    ∀ e ∈ ([.instrTick 0 0, .delayTick, .tickInstrTimer 9 0 0, .tickDelayTimer 9, .driver 9 0 0] : List Event),
      e ≠ .dispRead ∧ e ≠ .stop ∧ nextOf { State.reset with stopped := true, events := [e] } (fun t => t) =
        some { State.reset with stopped := true } := by decide
/-- A program image whose last byte is the last of memory, and one that runs past it. -/
theorem witness_ResetLoadsImagesIntoTheResetState :
    let c : Config := { Config.canonical with progBase := 0xFFE }
    nextOf { State.reset with cfg := c, events := [.reset (some []) (some [1, 2, 3])] } (fun t => t.memReadAll 0xFFE 3) =
      some [1, 2, 0] := by decide
theorem witness_OutOfBoundsAccessIsHarmless : State.reset.cfg.memSize ≤ 4096 := by decide
theorem witness_PopUndoesPushAndIsZeroOnEmpty : State.reset.stack = [] := by decide
/-- T-B14. -/
theorem witness_StoredRegistersAreFetchedNext :
    let s : State := { start [(0, 0x6A), (1, 0x55)] 0x202 with pc := 0x202 }
    s.Inv ∧ (1 : Reg).val = (0 : Reg).val + 1 ∧ (1 : Reg) ≤ 1 ∧ s.pc.toNat = s.i.toNat + (0 : Reg).val ∧
      s.pc.toNat + 1 < s.cfg.memSize :=
  ⟨⟨by decide, by decide, by decide, by decide, by decide, by decide⟩, by decide, by decide, by decide, by decide⟩
theorem witness_RetPopsTheReturnAddress :
    State.reset.stack = [] ∧ ({ State.reset with stack := [1, 2] } : State).stack = [1] ++ [2] := by decide
theorem witness_CallPushesThePCAndRetComesBack : (State.reset.push 0x202).stack = State.reset.stack ++ [0x202] := by decide
/-- Carry, and no carry. -/
theorem witness_AddRegSetsCarryLast : 255 < (200 : Byte).toNat + (100 : Byte).toNat ∧ ¬ 255 < (200 : Byte).toNat + (55 : Byte).toNat ∧
    (0 : Reg) ≠ vF := by decide
theorem witness_AddIWrapsAndFlagsWhenEnabled :
    (flagsOn State.reset).cfg.qIndexOvfFlag = true ∧ 0x0FFF < (0x0FFE : Addr).toNat + (2 : Byte).toNat ∧
    ¬ 0x0FFF < (0x0FFE : Addr).toNat + (1 : Byte).toNat := by decide
theorem witness_JpV0AddsTheOffsetRegister : (2 : Reg).val = (0x2F0 : Imm12).toNat / 256 := by decide
/-- A sprite with a pixel inside the display that collides, and one of its columns clipped. -/
theorem witness_DrwInvertsThePixelsUnderTheSprite :
    let s : State := withPixel 63 0 (start [(0, 62)] 0x300 [(0x300, 0xFF)])
    Grid.wf s.cfg.dispW s.cfg.dispH s.px ∧ SpriteAt s 0 1 1 63 0 ∧ s.px.pixel 63 0 = true ∧ ¬ SpriteAt s 0 1 1 64 0 := by
  unfold SpriteAt; decide
/-- A set bit in the last column, and the clipped one beside it. -/
theorem witness_DrawWrapsTheStartAndClipsTheBody :
    Grid.wf 10 10 (Grid.blank 10 10) ∧ (19 % 10 ≤ 9 ∧ 9 < 10 ∧ (([0xC0] : List Byte).getD 0 0).getLsbD (7 - (9 - 19 % 10)) = true) ∧
    ¬ (10 < 10) ∧ (([0xC0] : List Byte).getD 0 0).getLsbD (7 - (10 - 19 % 10)) = true := by decide
theorem witness_DrawingTwiceRestoresTheDisplay :
    Grid.wf 10 10 (Grid.blank 10 10) ∧ (∀ c < 10, ∀ r < 10, (Grid.blank 10 10).pixel c r = false) ∧
    ([0x80] : List Byte).length = 1 ∧ (([0x80] : List Byte).getD 0 0).getLsbD 7 = true ∧ 9 % 10 + 0 < 10 := by decide
/-- A key down; key 15, the last number; number 16, which names no key. -/
theorem witness_KeySkipsReadTheSnapshot :
    let s : State := { start [(1, 15), (2, 16)] with keys := 0x8000 }
    ((s.getV 1).toNat ≤ 15 ∧ s.keys.getLsbD (s.getV 1).toNat = true) ∧ ¬ (s.getV 2).toNat ≤ 15 := by decide
theorem witness_KeyWaitRepeatsOrTakesTheLeastKey :
    State.reset.keys = 0 ∧ ({ State.reset with keys := 0x8000 } : State).keys ≠ 0 := by decide
/-- The default formula, and a table. -/
theorem witness_FontLookupSetsTheIndex :
    State.reset.cfg.fontTable = none ∧
    after 0xF229 { start [(2, 255)] with
      cfg := { Config.canonical with fontTable := some ((Vector.replicate 256 0).set 255 7) } } (fun t => t.i) = some 7 := by decide
/-- All three digits in bounds; and only the first, at the last address. -/
theorem witness_BcdStoresTheThreeDigits :
    (start [(5, 255)] 0xFFD).Inv ∧ (0xFFD : Addr).toNat + 2 < State.reset.cfg.memSize ∧
    (start [(5, 255)] 0xFFF).Inv ∧ (0xFFF : Addr).toNat < State.reset.cfg.memSize ∧
    ¬ (0xFFF : Addr).toNat + 1 < State.reset.cfg.memSize :=
  ⟨⟨by decide, by decide, by decide, by decide, by decide, by decide⟩, by decide,
   ⟨by decide, by decide, by decide, by decide, by decide, by decide⟩, by decide, by decide⟩
/-- A range that fits to the last byte, with and without the increment. -/
theorem witness_StoreRegistersWritesTheRange :
    (start [(1, 9)] 0xFFE).Inv ∧ (1 : Reg) ≤ 1 ∧ (0xFFE : Addr).toNat + (1 : Reg).val < State.reset.cfg.memSize ∧
    (flagsOn (start [(1, 9)] 0xFFE)).Inv :=
  ⟨⟨by decide, by decide, by decide, by decide, by decide, by decide⟩, by decide, by decide,
   ⟨by decide, by decide, by decide, by decide, by decide, by decide⟩⟩
theorem witness_LoadRegistersReadsTheRange : (1 : Reg) ≤ 1 ∧ (1 : Reg) < 2 := by decide
theorem witness_InstructionsTouchOnlyTheirParts : ∃ t, exec (.ldVxMem 15) State.reset = .next t := ⟨_, rfl⟩
theorem witness_InstructionsWriteOnlyTheirRegisters : ∃ t, exec (.addI 3) (flagsOn State.reset) = .next t := ⟨_, rfl⟩
/-- FX1E is a flag writer only when its compatibility flag is set. -/
theorem witness_FlagWritersLeaveZeroOrOne :
    writesFlag (flagsOn State.reset).cfg (.addI 3) = true ∧ writesFlag State.reset.cfg (.addI 3) = false ∧
    (∃ t, exec (.addI 3) (flagsOn State.reset) = .next t) ∧ writesFlag State.reset.cfg (.shl 15 15) = true ∧
    ∃ t, exec (.shl 15 15) State.reset = .next t := ⟨rfl, rfl, ⟨_, rfl⟩, rfl, _, rfl⟩
theorem witness_OnlyKeyInstructionsReadTheKeys :
    ∀ x, Instr.ldVxDt 3 ≠ .skp x ∧ Instr.ldVxDt 3 ≠ .sknp x ∧ Instr.ldVxDt 3 ≠ .ldVxK x := by decide
theorem witness_OnlyRndReadsTheRandomByte : ∀ x nn, Instr.ldImm 3 9 ≠ .rnd x nn := by
  intro x nn h; cases h

end Sys2Proof.Tests
end

section
/-! What a constructor's, an instruction cycle's and a step's next state keep of the configuration (00_scope.md R5). -/

namespace Sys2Proof.Machine

/-- Construction gives an engine exactly when both images are readable: the reset engine with them loaded
(70_reset_and_hazards.md R231; 60_exceptions.md R203). -/
theorem State.construct_eq_next_iff {s t : State} {font prog : Option (List Byte)} :
    s.construct font prog = .next t ↔ ∃ f p, font = some f ∧ prog = some p ∧ t = s.resetEngine.load f p := by
  cases font <;> cases prog <;> simp [State.construct, State.raise, eq_comm]

@[simp] theorem State.resetEngine_cfg (s : State) : s.resetEngine.cfg = s.cfg := rfl

@[simp] theorem State.load_cfg (s : State) (font prog : List Byte) : (s.load font prog).cfg = s.cfg := by
  simp [State.load]

theorem State.construct_cfg {s t : State} {font prog : Option (List Byte)} (h : s.construct font prog = .next t) :
    t.cfg = s.cfg := by
  obtain ⟨f, p, -, -, rfl⟩ := State.construct_eq_next_iff.mp h
  simp

theorem fetchAndRun_cfg {s t : State} (h : fetchAndRun s = .next t) : t.cfg = s.cfg := by
  obtain ⟨-, e⟩ | ⟨-, i, -, e⟩ | ⟨-, _, -, e⟩ := fetchAndRun_cases s <;> rw [e] at h
  · cases h; rfl
  · exact (exec_sameSurroundings h).cfg
  · cases h; rfl

theorem RunsFrom.cfg {s u : State} (h : RunsFrom s u) : u.cfg = s.cfg := by
  obtain ⟨-, -, hu⟩ := h
  rw [hu]

theorem RunsNothing.cfg {s t : State} (h : RunsNothing s t) : t.cfg = s.cfg := by
  obtain ⟨-, -, ht⟩ := h
  rw [ht]

/-- Settles O12, by the three shapes a step can have: an instruction cycle, an event that runs none, a reset. -/
theorem stepKeepsTheConfiguration : Obligations.StepKeepsTheConfiguration := by
  intro s t h
  obtain ⟨u, hu, e⟩ | ⟨t', ht', e⟩ | ⟨font, prog, rest, -, e⟩ := step_cases s <;> rw [e] at h
  · exact (fetchAndRun_cfg h).trans hu.cfg
  · cases h
    exact ht'.cfg
  · exact (State.construct_cfg h).trans (State.setEvents_cfg s rest)

end Sys2Proof.Machine
end

section
/-! The stack, the ports, the host's stop and the reset state (10_state.md R18, R19, R33, R35, R37). -/

namespace Sys2Proof.Machine

/-! ## Stack -/

/-- Pop undoes push (10_state.md R18, R19). -/
@[simp] theorem State.dropTop_push (s : State) (a : Addr) : (s.push a).dropTop = s := by
  simp [State.push, State.dropTop]

theorem State.dropTop_of_empty {s : State} (h : s.stack = []) : s.dropTop = s := by
  have hdrop : s.stack.dropLast = s.stack := by simp [h]
  rw [State.dropTop, hdrop]

/-- Settles O23. -/
theorem popUndoesPushAndIsZeroOnEmpty : Obligations.PopUndoesPushAndIsZeroOnEmpty :=
  ⟨fun s a => ⟨s.top_push a, s.dropTop_push a, by simp⟩,
   fun _ h => ⟨State.top_of_empty h, State.dropTop_of_empty h⟩⟩

/-! ## Display port and stop -/

/-- Settles O19. -/
theorem displayReadClearsTheChangedFlag : Obligations.DisplayReadClearsTheChangedFlag :=
  fun _ _ he => ⟨rfl, step_of_event he⟩

/-- With no event pending a stopped engine does nothing (10_state.md R35). -/
theorem idleStep_of_stopped {s : State} (h : s.stopped = true) : idleStep s = .next s := by
  simp [idleStep, h]

/-- After the stop an event of the clock is consumed without effect (10_state.md R35). -/
theorem handleEvent_of_stopped {s : State} {e : Event} (h : s.stopped = true)
    (he : e ≠ .dispRead ∧ e ≠ .stop ∧ ∀ f p, e ≠ .reset f p) : handleEvent e s = .next s := by
  obtain ⟨hread, hstop, hreset⟩ := he
  cases e with
  | dispRead => exact absurd rfl hread
  | stop => exact absurd rfl hstop
  | reset f p => exact absurd rfl (hreset f p)
  | instrTick | delayTick | tickInstrTimer | tickDelayTimer | driver => simp [handleEvent, h]

/-- Settles O20: the stop itself, a step with no event pending, and an event of the clock. -/
theorem stopEndsTheDeliveryOfTicks : Obligations.StopEndsTheDeliveryOfTicks := by
  refine ⟨fun s rest he => step_of_event he, fun s hs he => ?_, fun s e rest hs he hclock => ?_⟩
  · exact (step_of_no_event he).trans (idleStep_of_stopped hs)
  · exact (step_of_event he).trans (handleEvent_of_stopped hs hclock)

/-! ## Reset -/

theorem Config.periods_pos_of_legal {c : Config} (h : c.legal = true) : 0 < c.iclkPeriod ∧ 0 < c.dclkPeriod := by
  simp only [Config.legal, Bool.and_eq_true, decide_eq_true_eq] at h
  omega

/-- The reset state of a legal configuration meets the invariant (10_state.md R37). -/
theorem State.resetWith_inv {c : Config} (h : c.legal = true) : (State.resetWith c).Inv where
  cfgLegal := h
  memWf := ⟨.nil, by simp [State.resetWith]⟩
  gridWf := Grid.blank_wf c.dispW c.dispH
  iclkAccBelow := (Config.periods_pos_of_legal h).1
  iclkValueBound := Nat.zero_le _
  dtAccBelow := (Config.periods_pos_of_legal h).2

/-- Settles O14. -/
theorem resetStateMeetsTheInvariant : Obligations.ResetStateMeetsTheInvariant :=
  ⟨State.resetWith_inv (by decide), fun _ h => State.resetWith_inv h⟩

theorem State.getV_resetEngine (s : State) (r : Reg) : s.resetEngine.getV r = 0 := by
  simp [State.getV_eq, State.resetEngine, State.resetWith]

/-- Before loading, every byte reads 0 (10_state.md R37, the spec's decision D17). -/
theorem State.memRead_resetEngine (s : State) (a : Nat) : s.resetEngine.memRead a = 0 := by
  simp [State.memRead, State.resetEngine, State.resetWith, Memory.get, Config.blankByte]

theorem State.resetEngine_memWf (s : State) : Memory.wf s.resetEngine.cfg.memSize s.resetEngine.mem :=
  ⟨.nil, by simp [State.resetEngine, State.resetWith]⟩

theorem State.memWriteAll_eq (s : State) (a : Nat) (bs : List Byte) :
    s.memWriteAll a bs = { s with mem := (s.memWriteAll a bs).mem } := by
  induction bs generalizing s a with
  | nil => rfl
  | cons b rest ih => exact ih (s.memWrite a b) (a + 1)

theorem State.getV_load (s : State) (font prog : List Byte) (r : Reg) : (s.load font prog).getV r = s.getV r := by
  simp [State.load]

/-- `MemRead` after the loader: the program's bytes over the font's, over what memory held before
(70_reset_and_hazards.md R232). -/
theorem State.memRead_load {s : State} (hm : Memory.wf s.cfg.memSize s.mem) (font prog : List Byte) (a : Nat) :
    (s.load font prog).memRead a =
      if s.cfg.progBase.toNat ≤ a ∧ a < s.cfg.progBase.toNat + prog.length ∧ a < s.cfg.memSize then
        prog.getD (a - s.cfg.progBase.toNat) 0
      else if s.cfg.fontBase.toNat ≤ a ∧ a < s.cfg.fontBase.toNat + font.length ∧ a < s.cfg.memSize then
        font.getD (a - s.cfg.fontBase.toNat) 0
      else s.memRead a := by
  have hfont : Memory.wf (s.memWriteAll s.cfg.fontBase.toNat font).cfg.memSize
      (s.memWriteAll s.cfg.fontBase.toNat font).mem := by
    simpa using State.memWriteAll_wf hm s.cfg.fontBase.toNat font
  rw [State.load, State.memRead_memWriteAll hfont, State.memRead_memWriteAll hm, State.memWriteAll_cfg]

/-- The loader changes memory alone (70_reset_and_hazards.md R232). -/
theorem State.load_eq (s : State) (font prog : List Byte) :
    s.load font prog = { s with mem := (s.load font prog).mem } := by
  rw [State.load, State.memWriteAll_eq (s.memWriteAll _ font), State.memWriteAll_eq s]

/-- Settles O21: the reset engine gives the fields of R37, the loader changes memory alone, and memory reads by
`State.memRead_load`. -/
theorem resetLoadsImagesIntoTheResetState : Obligations.ResetLoadsImagesIntoTheResetState := by
  intro s font prog rest he
  have e := State.load_eq (s.setEvents rest).resetEngine font prog
  refine ⟨(s.setEvents rest).resetEngine.load font prog, step_of_event he, fun r => ?_, congrArg State.i e,
    congrArg State.pc e, congrArg State.stack e, fun x y => ?_, congrArg State.dt e, congrArg State.st e,
    congrArg State.dispChanged e, congrArg State.halted e, congrArg State.errlog e, congrArg (·.iclk.acc) e,
    congrArg State.dtAcc e, State.load_cfg _ _ _, fun a => ?_⟩
  · rw [State.getV_load, State.getV_resetEngine]
  · exact (congrArg (·.px.pixel x y) e).trans (Grid.pixel_blank s.cfg.dispW s.cfg.dispH x y)
  · rw [State.memRead_load (State.resetEngine_memWf _), State.memRead_resetEngine]
    by_cases ha : a < s.cfg.memSize <;> simp [ha]

end Sys2Proof.Machine
end

section
/-! errlog across a step (10_state.md R25; 60_exceptions.md R201, R206). -/

namespace Sys2Proof.Machine

/-- `t`'s errlog is `s`'s with at most one record appended. -/
def LogsAtMostOne (s t : State) : Prop := ∃ l, t.errlog = s.errlog ++ l ∧ l.length ≤ 1

theorem LogsAtMostOne.of_eq {s t : State} (h : t.errlog = s.errlog) : LogsAtMostOne s t := ⟨[], by simp [h], by simp⟩

/-- Only a word that decodes to nothing appends a record (60_exceptions.md R201, R206). -/
theorem fetchAndRun_logsAtMostOne {s t : State} (h : fetchAndRun s = .next t) : LogsAtMostOne s t := by
  obtain ⟨-, e⟩ | ⟨-, i, -, e⟩ | ⟨-, _, -, e⟩ := fetchAndRun_cases s <;> rw [e] at h
  · cases h
    exact .of_eq rfl
  · exact .of_eq (exec_sameSurroundings h).errlog
  · cases h
    exact ⟨[⟨s.pc, s.fetchWord⟩], rfl, by simp⟩

theorem RunsFrom.errlog {s u : State} (h : RunsFrom s u) : u.errlog = s.errlog := by
  obtain ⟨-, -, hu⟩ := h
  rw [hu]

theorem RunsNothing.errlog {s t : State} (h : RunsNothing s t) : t.errlog = s.errlog := by
  obtain ⟨-, -, ht⟩ := h
  rw [ht]

/-- Settles O11, by the three shapes a step can have; the third is a reset, which the hypothesis shuts out. -/
theorem errlogOnlyGrowsByOneRecord : Obligations.ErrlogOnlyGrowsByOneRecord := by
  intro s t hr h
  obtain ⟨u, hu, e⟩ | ⟨t', ht', e⟩ | ⟨font, prog, rest, he, -⟩ := step_cases s
  · rw [e] at h
    exact hu.errlog ▸ fetchAndRun_logsAtMostOne h
  · rw [e] at h
    cases h
    exact LogsAtMostOne.of_eq ht'.errlog
  · simp [State.resetNext, he] at hr

end Sys2Proof.Machine
end

section
/-! The two cases of FX1E, of FX0A, and of the post-increment of FX55 and FX65 (44_index_jump_random.md R151;
46_key_timer.md R172; 47_font_bcd_memory.md R182). -/

namespace Sys2Proof.Machine

theorem exec_addI_of_flag {s : State} (h : s.cfg.qIndexOvfFlag = true) (x : Reg) :
    exec (.addI x) s =
      .next ((s.setI (s.i + addrOfByte (s.getV x))).setFlag (indexOverflowFlag s.i (s.getV x))) := by
  simp [exec, execAddI, h]

theorem exec_addI_of_no_flag {s : State} (h : s.cfg.qIndexOvfFlag = false) (x : Reg) :
    exec (.addI x) s = .next (s.setI (s.i + addrOfByte (s.getV x))) := by
  simp [exec, execAddI, h]

theorem exec_ldVxK_of_no_key {s : State} (h : s.keys = 0) (x : Reg) :
    exec (.ldVxK x) s = .next (s.setPC (s.pc - 2)) :=
  congrArg Host.Outcome.next (if_pos h)

theorem exec_ldVxK_of_key {s : State} (h : s.keys ≠ 0) (x : Reg) :
    exec (.ldVxK x) s = .next (s.setV x (lowestKey s.keys)) :=
  congrArg Host.Outcome.next (if_neg h)

theorem State.advanceI_of_off {s : State} (h : s.cfg.qMemIncI = false) (x : Reg) : s.advanceI x = s := by
  rw [State.advanceI, h]
  rfl

end Sys2Proof.Machine
end

section
/-! What every instruction leaves unchanged (10_state.md R12 to R23; 20_memory.md R40). A new value of an allowed part
keeps a frame, so that the frame of a meaning is the chain of its writes. -/

namespace Sys2Proof

open Machine

section
variable {ps : List Part} {s t : State}

theorem Unchanged.refl (p : Part) (s : State) : Unchanged p s s := by
  cases p with
  | display => exact ⟨fun _ _ => rfl, rfl⟩
  | regs | memory => exact fun _ => rfl
  | index | pc | stack | dt | st => exact rfl

theorem OnlyParts.refl (ps : List Part) (s : State) : OnlyParts ps s s :=
  ⟨⟨rfl, rfl, rfl, rfl, rfl, rfl, rfl, rfl, rfl, rfl⟩, fun p _ => Unchanged.refl p s⟩

theorem OnlyParts.cfg (h : OnlyParts ps s t) : t.cfg = s.cfg := h.1.1

/-! One rule per part: any new value of an allowed part keeps the frame. -/

theorem OnlyParts.withRegs (h : OnlyParts ps s t) (hp : .regs ∈ ps) (v' : Vector Byte 16) :
    OnlyParts ps s { t with v := v' } := by
  refine ⟨h.1, fun q hq => ?_⟩
  cases q with
  | regs => exact absurd hp hq
  | index | pc | stack | memory | display | dt | st => exact h.2 _ hq

theorem OnlyParts.withIndex (h : OnlyParts ps s t) (hp : .index ∈ ps) (i' : Addr) :
    OnlyParts ps s { t with i := i' } := by
  refine ⟨h.1, fun q hq => ?_⟩
  cases q with
  | index => exact absurd hp hq
  | regs | pc | stack | memory | display | dt | st => exact h.2 _ hq

theorem OnlyParts.withPC (h : OnlyParts ps s t) (hp : .pc ∈ ps) (pc' : Addr) :
    OnlyParts ps s { t with pc := pc' } := by
  refine ⟨h.1, fun q hq => ?_⟩
  cases q with
  | pc => exact absurd hp hq
  | regs | index | stack | memory | display | dt | st => exact h.2 _ hq

theorem OnlyParts.withStack (h : OnlyParts ps s t) (hp : .stack ∈ ps) (stack' : List Addr) :
    OnlyParts ps s { t with stack := stack' } := by
  refine ⟨h.1, fun q hq => ?_⟩
  cases q with
  | stack => exact absurd hp hq
  | regs | index | pc | memory | display | dt | st => exact h.2 _ hq

theorem OnlyParts.withMemory (h : OnlyParts ps s t) (hp : .memory ∈ ps) (mem' : Memory) :
    OnlyParts ps s { t with mem := mem' } := by
  refine ⟨h.1, fun q hq => ?_⟩
  cases q with
  | memory => exact absurd hp hq
  | regs | index | pc | stack | display | dt | st => exact h.2 _ hq

theorem OnlyParts.withDT (h : OnlyParts ps s t) (hp : .dt ∈ ps) (dt' : Byte) :
    OnlyParts ps s { t with dt := dt' } := by
  refine ⟨h.1, fun q hq => ?_⟩
  cases q with
  | dt => exact absurd hp hq
  | regs | index | pc | stack | memory | display | st => exact h.2 _ hq

theorem OnlyParts.withST (h : OnlyParts ps s t) (hp : .st ∈ ps) (st' : Byte) :
    OnlyParts ps s { t with st := st' } := by
  refine ⟨h.1, fun q hq => ?_⟩
  cases q with
  | st => exact absurd hp hq
  | regs | index | pc | stack | memory | display | dt => exact h.2 _ hq

theorem OnlyParts.showGrid (h : OnlyParts ps s t) (hp : .display ∈ ps) (g : Grid) : OnlyParts ps s (t.showGrid g) := by
  refine ⟨h.1, fun q hq => ?_⟩
  cases q with
  | display => exact absurd hp hq
  | regs | index | pc | stack | memory | dt | st => exact h.2 _ hq

theorem OnlyParts.memWriteAll (h : OnlyParts ps s t) (hp : .memory ∈ ps) (a : Nat) (bs : List Byte) :
    OnlyParts ps s (t.memWriteAll a bs) := by
  rw [State.memWriteAll_eq]
  exact h.withMemory hp _

theorem OnlyParts.advanceI (h : OnlyParts ps s t) (hp : s.cfg.qMemIncI = true → .index ∈ ps) (x : Reg) :
    OnlyParts ps s (t.advanceI x) := by
  cases hq : s.cfg.qMemIncI with
  | true => exact h.withIndex (hp hq) _
  | false => rwa [State.advanceI_of_off (h.cfg ▸ hq)]

end

/-- Settles O54: the meaning of each instruction, write by write, with the rule of the part it writes. -/
theorem instructionsTouchOnlyTheirParts : Obligations.InstructionsTouchOnlyTheirParts := by
  intro i s t h
  have same := OnlyParts.refl (partsWritten s.cfg i) s
  cases i with
  | cls =>
    cases h
    exact same.showGrid (by simp [partsWritten]) _
  | ret | call _ =>
    cases h
    exact (same.withStack (by simp [partsWritten]) _).withPC (by simp [partsWritten]) _
  | jp _ | jpV0 _ | seImm _ _ | sneImm _ _ | seReg _ _ | sneReg _ _ | skp _ | sknp _ =>
    cases h
    exact same.withPC (by simp [partsWritten]) _
  | ldImm _ _ | addImm _ _ | ldReg _ _ | orReg _ _ | andReg _ _ | xorReg _ _ | rnd _ _ | ldVxDt _
  | addReg _ _ | sub _ _ | shr _ _ | subn _ _ | shl _ _ =>
    cases h
    exact same.withRegs (by simp [partsWritten]) _
  | drw _ _ _ =>
    cases h
    exact (same.showGrid (by simp [partsWritten]) _).withRegs (by simp [partsWritten]) _
  | ldVxK _ =>
    cases h
    split
    · exact same.withPC (by simp [partsWritten]) _
    · exact same.withRegs (by simp [partsWritten]) _
  | ldDtVx _ =>
    cases h
    exact same.withDT (by simp [partsWritten]) _
  | ldStVx _ =>
    cases h
    exact same.withST (by simp [partsWritten]) _
  | ldI _ | ldF _ =>
    cases h
    exact same.withIndex (by simp [partsWritten]) _
  | addI x =>
    cases hq : s.cfg.qIndexOvfFlag with
    | true =>
      cases (exec_addI_of_flag hq x).symm.trans h
      exact (same.withIndex (by simp [partsWritten, hq]) _).withRegs (by simp [partsWritten, hq]) _
    | false =>
      cases (exec_addI_of_no_flag hq x).symm.trans h
      exact same.withIndex (by simp [partsWritten, hq]) _
  | ldB _ =>
    cases h
    exact same.memWriteAll (by simp [partsWritten]) _ _
  | ldMemVx x =>
    cases h
    exact (same.memWriteAll (by rw [partsWritten]; split <;> decide) _ _).advanceI (by simp +contextual [partsWritten]) x
  | ldVxMem x =>
    cases h
    exact (same.withRegs (by rw [partsWritten]; split <;> decide) _).advanceI (by simp +contextual [partsWritten]) x

/-! ## Registers -/

theorem RegsExcept.setV {ws : List Reg} {s t : State} (h : RegsExcept ws s t) {r : Reg} (hr : r ∈ ws) (b : Byte) :
    RegsExcept ws s (t.setV r b) := fun q hq =>
  (t.getV_setV_of_ne b (ne_of_mem_of_not_mem hr hq).symm).trans (h q hq)

/-- Settles O55: an instruction that does not write the registers at all leaves them by its frame; the others write the
registers of their column one after the other. -/
theorem instructionsWriteOnlyTheirRegisters : Obligations.InstructionsWriteOnlyTheirRegisters := by
  intro i s t h
  have unwritten : .regs ∉ partsWritten s.cfg i → RegsExcept (regsWritten s.cfg i) s t := fun hp r _ =>
    (instructionsTouchOnlyTheirParts i s t h).2 .regs hp r
  cases i with
  | cls | ret | jp _ | call _ | ldI _ | jpV0 _ | seImm _ _ | sneImm _ _ | seReg _ _ | sneReg _ _ | skp _ | sknp _
  | ldDtVx _ | ldStVx _ | ldF _ | ldB _ => exact unwritten (by simp [partsWritten])
  | ldMemVx _ => exact unwritten (by rw [partsWritten]; split <;> decide)
  | ldImm _ _ | addImm _ _ | ldReg _ _ | orReg _ _ | andReg _ _ | xorReg _ _ | rnd _ _ | ldVxDt _ | drw _ _ _ =>
    cases h
    exact RegsExcept.setV (fun _ _ => rfl) (by simp [regsWritten]) _
  | addReg _ _ | sub _ _ | shr _ _ | subn _ _ | shl _ _ =>
    cases h
    exact RegsExcept.setV (RegsExcept.setV (fun _ _ => rfl) (by simp [regsWritten]) _) (by simp [regsWritten]) _
  | ldVxK _ =>
    cases h
    split
    · exact fun _ _ => rfl
    · exact RegsExcept.setV (fun _ _ => rfl) (by simp [regsWritten]) _
  | addI x =>
    cases hq : s.cfg.qIndexOvfFlag with
    | true =>
      cases (exec_addI_of_flag hq x).symm.trans h
      exact RegsExcept.setV (fun _ _ => rfl) (by simp [regsWritten, hq]) _
    | false => exact unwritten (by simp [partsWritten, hq])
  | ldVxMem x =>
    cases h
    intro r hr
    have hx : ¬ r ≤ x := by simpa [regsWritten] using hr
    rw [State.getV_advanceI, State.getV_loadRegs, if_neg hx]

/-- VF after the flag is written: 0 or 1 (10_state.md R13, R14). -/
theorem getV_setFlag_flagOf (s : State) (c : Bool) :
    (s.setFlag (flagOf c)).getV vF = 0 ∨ (s.setFlag (flagOf c)).getV vF = 1 := by
  rw [State.getV_setFlag, if_pos rfl]
  cases c with
  | false => exact .inl rfl
  | true => exact .inr rfl

/-- Settles O56: every flag writer writes a condition's flag to VF, last. -/
theorem flagWritersLeaveZeroOrOne : Obligations.FlagWritersLeaveZeroOrOne := by
  intro i s t hw h
  cases i with
  | addReg _ _ | sub _ _ | shr _ _ | subn _ _ | shl _ _ | drw _ _ _ =>
    cases h
    exact getV_setFlag_flagOf _ _
  | addI x =>
    cases (exec_addI_of_flag hw x).symm.trans h
    exact getV_setFlag_flagOf _ _
  | _ => cases hw

end Sys2Proof
end

section
/-! ST, the key snapshot and the random byte: only the instructions that name one of them see it (10_state.md R22, R31,
R32). -/

namespace Sys2Proof.Machine

/-- `s` with ST, the key snapshot and the random byte changed, each by a function (`id` keeps it). -/
def State.mapUnread (f : Byte → Byte) (g : Word → Word) (h : Byte → Byte) (s : State) : State :=
  { s with st := f s.st, keys := g s.keys, rnd := h s.rnd }

section
variable {f : Byte → Byte} {g : Word → Word} {h : Byte → Byte}

theorem State.memWriteAll_mapUnread (s : State) (a : Nat) (bs : List Byte) :
    (s.mapUnread f g h).memWriteAll a bs = (s.memWriteAll a bs).mapUnread f g h := by
  induction bs generalizing s a with
  | nil => rfl
  | cons b rest ih => exact ih (s.memWrite a b) (a + 1)

/-- A change of ST, the keys and the random byte passes through every instruction that does not use what is changed. -/
theorem exec_mapUnread (i : Instr) (s : State) (hf : f = id ∨ ∀ x, i ≠ .ldStVx x)
    (hg : g = id ∨ ∀ x, i ≠ .skp x ∧ i ≠ .sknp x ∧ i ≠ .ldVxK x) (hh : h = id ∨ ∀ x nn, i ≠ .rnd x nn) :
    exec i (s.mapUnread f g h) = mapNext (State.mapUnread f g h) (exec i s) := by
  cases i with
  | ldStVx x =>
    obtain rfl := hf.resolve_right fun hn => hn x rfl
    rfl
  | skp x =>
    obtain rfl := hg.resolve_right fun hn => (hn x).1 rfl
    rfl
  | sknp x =>
    obtain rfl := hg.resolve_right fun hn => (hn x).2.1 rfl
    rfl
  | ldVxK x =>
    obtain rfl := hg.resolve_right fun hn => (hn x).2.2 rfl
    by_cases hk : s.keys = 0
    · rw [exec_ldVxK_of_no_key hk, exec_ldVxK_of_no_key (s := s.mapUnread f id h) hk]
      rfl
    · rw [exec_ldVxK_of_key hk, exec_ldVxK_of_key (s := s.mapUnread f id h) hk]
      rfl
  | rnd x nn =>
    obtain rfl := hh.resolve_right fun hn => hn x nn rfl
    rfl
  | addI x =>
    cases hq : s.cfg.qIndexOvfFlag with
    | true =>
      rw [exec_addI_of_flag hq, exec_addI_of_flag (s := s.mapUnread f g h) hq]
      rfl
    | false =>
      rw [exec_addI_of_no_flag hq, exec_addI_of_no_flag (s := s.mapUnread f g h) hq]
      rfl
  | ldB x => exact congrArg Host.Outcome.next (s.memWriteAll_mapUnread _ _)
  | ldMemVx x => exact congrArg (fun t : State => Host.Outcome.next (t.advanceI x)) (s.memWriteAll_mapUnread _ _)
  | _ => rfl

end

/-- Settles O58. -/
theorem onlyKeyInstructionsReadTheKeys : Obligations.OnlyKeyInstructionsReadTheKeys := fun i s k hi =>
  exec_mapUnread (f := id) (g := fun _ => k) (h := id) i s (.inl rfl) (.inr hi) (.inl rfl)

/-- Settles O59. -/
theorem onlyRndReadsTheRandomByte : Obligations.OnlyRndReadsTheRandomByte := fun i s b hi =>
  exec_mapUnread (f := id) (g := id) (h := fun _ => b) i s (.inl rfl) (.inl rfl) (.inr hi)

/-! ## No step reads ST -/

/-- Two outcomes that differ in ST at most (10_state.md R22). -/
def SameButST (o o' : Out) : Prop := mapNext (fun t => { t with st := 0 }) o = mapNext (fun t => { t with st := 0 }) o'

theorem SameButST.next_setST (s : State) (b : Byte) : SameButST (.next (s.setST b)) (.next s) := rfl

theorem SameButST.mapNext_setST (o : Out) (b : Byte) : SameButST (mapNext (fun t => t.setST b) o) o := by
  cases o with
  | next | fault | refused => rfl

/-- FX18 writes ST over whatever it was; every other instruction passes it on. -/
theorem exec_setST (i : Instr) (s : State) (b : Byte) : SameButST (exec i (s.setST b)) (exec i s) := by
  by_cases hi : ∀ x, i ≠ .ldStVx x
  · have e : exec i (s.setST b) = mapNext (fun t => t.setST b) (exec i s) :=
      exec_mapUnread (f := fun _ => b) (g := id) (h := id) i s (.inr hi) (.inl rfl) (.inl rfl)
    exact e ▸ .mapNext_setST (exec i s) b
  · obtain ⟨x, rfl⟩ : ∃ x, i = .ldStVx x := by simpa using hi
    rfl

theorem dispatchWord_setST (w : Word) (s : State) (b : Byte) :
    SameButST (dispatchWord w (s.setST b)) (dispatchWord w s) := by
  unfold dispatchWord
  cases decodeWord w with
  | ok i => exact exec_setST i s b
  | error _ => rfl

theorem fetchAndRun_setST (s : State) (b : Byte) : SameButST (fetchAndRun (s.setST b)) (fetchAndRun s) := by
  have hb : (s.setST b).fetchInBounds = s.fetchInBounds := rfl
  unfold fetchAndRun State.fetch
  rw [hb]
  cases s.fetchInBounds with
  | true => exact dispatchWord_setST s.fetchWord s.advancePC b
  | false => rfl

theorem instrStep_setST (k : Word) (r : Byte) (s : State) (b : Byte) :
    SameButST (instrStep k r (s.setST b)) (instrStep k r s) := by
  cases hh : s.halted with
  | none =>
    rw [instrStep_of_running hh, instrStep_of_running (s := s.setST b) hh]
    exact fetchAndRun_setST (s.latch k r) b
  | some c =>
    rw [instrStep_of_halted hh, instrStep_of_halted (s := s.setST b) hh]
    exact .next_setST s b

theorem tickInstrAndRun_setST (d : Nat) (k : Word) (r : Byte) (s : State) (b : Byte) :
    SameButST (tickInstrAndRun d k r (s.setST b)) (tickInstrAndRun d k r s) := by
  have hfires : (s.setST b).instrTimerFires d = s.instrTimerFires d := rfl
  unfold tickInstrAndRun
  rw [hfires]
  split
  · exact instrStep_setST k r (s.tickInstr d) b
  · exact .next_setST (s.tickInstr d) b

/-- A reset gives ST its own value (10_state.md R37). -/
theorem construct_setST (s : State) (b : Byte) (font prog : Option (List Byte)) :
    (s.setST b).construct font prog = s.construct font prog := by
  cases font with
  | none => rfl
  | some f =>
    cases prog with
    | none => rfl
    | some p => rfl

theorem handleEvent_setST (e : Event) (s : State) (b : Byte) :
    SameButST (handleEvent e (s.setST b)) (handleEvent e s) := by
  have hstop : (s.setST b).stopped = s.stopped := rfl
  cases e with
  | reset font prog => rw [handleEvent, handleEvent, construct_setST]; rfl
  | dispRead | stop => rfl
  | instrTick k r =>
    simp only [handleEvent, hstop]
    split
    · rfl
    · exact instrStep_setST k r s b
  | tickInstrTimer d k r =>
    simp only [handleEvent, hstop]
    split
    · rfl
    · exact tickInstrAndRun_setST d k r s b
  | delayTick | tickDelayTimer _ | driver _ _ _ =>
    simp only [handleEvent, hstop]
    split <;> rfl

theorem idleStep_setST (s : State) (b : Byte) : SameButST (idleStep (s.setST b)) (idleStep s) := by
  have hidle : ((s.setST b).stopped || (s.setST b).halted.isSome) = (s.stopped || s.halted.isSome) := rfl
  unfold idleStep
  rw [hidle]
  split
  · rfl
  · exact instrStep_setST _ _ s.countDraw b

/-- Settles O57: ST passes unread through each layer of the step, down to the instructions. -/
theorem noStepReadsTheSoundTimer : Obligations.NoStepReadsTheSoundTimer := by
  intro s b
  change SameButST (step (s.setST b)) (step s)
  cases he : s.events with
  | nil =>
    rw [step_of_no_event he, step_of_no_event (s := s.setST b) he]
    exact idleStep_setST s b
  | cons e rest =>
    rw [step_of_event he, step_of_event (s := s.setST b) he]
    exact handleEvent_setST e (s.setEvents rest) b

end Sys2Proof.Machine
end

section
/-! Memory at its end and under the fetch (20_memory.md R42 to R44, R51). -/

namespace Sys2Proof.Machine

theorem State.memWrite_of_size_le {s : State} {a : Nat} (h : s.cfg.memSize ≤ a) (b : Byte) : s.memWrite a b = s := by
  rw [State.memWrite, if_neg (Nat.not_lt.mpr h)]

/-- A write that begins at or above MEM_SIZE drops every byte (20_memory.md R42, R43). -/
theorem State.memWriteAll_of_size_le {s : State} {a : Nat} (h : s.cfg.memSize ≤ a) (bs : List Byte) :
    s.memWriteAll a bs = s := by
  induction bs generalizing a with
  | nil => rfl
  | cons b rest ih => rw [State.memWriteAll, State.memWrite_of_size_le h, ih (Nat.le_succ_of_le h)]

/-- Settles O22: the read is out of bounds, and the write drops every byte. -/
theorem outOfBoundsAccessIsHarmless : Obligations.OutOfBoundsAccessIsHarmless :=
  fun s _ h => ⟨s.memRead_of_size_le h, fun bs b => congrArg (·.memRead b) (State.memWriteAll_of_size_le h bs)⟩

/-- What FX55 stores at I + K is VK, where that is in bounds (47_font_bcd_memory.md R182). -/
theorem memRead_exec_ldMemVx {s t : State} (hm : Memory.wf s.cfg.memSize s.mem) {x k : Reg}
    (h : exec (.ldMemVx x) s = .next t) (hk : k ≤ x) (hb : s.i.toNat + k.val < s.cfg.memSize) :
    t.memRead (s.i.toNat + k.val) = s.getV k := by
  have hrange : s.i.toNat + k.val < s.i.toNat + (s.regsUpTo x).length := by
    rw [State.regsUpTo_length]
    exact Nat.add_lt_add_left (Nat.lt_succ_of_le hk) _
  have hbase : s.effAddr 0 = s.i.toNat := rfl
  cases h
  rw [State.memRead_advanceI, State.memRead_memWriteAll hm, hbase, if_pos ⟨Nat.le_add_right _ _, hrange, hb⟩,
    Nat.add_sub_cancel_left, State.regsUpTo_getD s x k hk]

/-- The fetch of a word that lies in memory (30_encoding.md R72). -/
theorem State.fetch_of_inBounds {s : State} (h : s.pc.toNat + 1 < s.cfg.memSize) :
    s.fetch = .ok (s.memRead s.pc.toNat ++ s.memRead (s.pc.toNat + 1), { s with pc := s.pc + 2 }) :=
  if_pos (decide_eq_true h)

/-- Settles O24: FX55 leaves PC, and each of the two bytes the fetch reads there is the register stored there. -/
theorem storedRegistersAreFetchedNext : Obligations.StoredRegistersAreFetchedNext := by
  intro s x k k1 hinv hk hk1 hpc hb
  obtain ⟨t, h, hpct, hcfg⟩ : ∃ t, exec (.ldMemVx x) s = .next t ∧ t.pc = s.pc ∧ t.cfg = s.cfg :=
    ⟨_, rfl, by simp, by simp⟩
  have hpc1 : s.pc.toNat + 1 = s.i.toNat + k1.val := by omega
  have hkx : k ≤ x := le_trans (Fin.le_def.mpr (by omega)) hk1
  have hhigh : t.memRead s.pc.toNat = s.getV k := by
    rw [hpc]
    exact memRead_exec_ldMemVx hinv.memWf h hkx (by omega)
  have hlow : t.memRead (s.pc.toNat + 1) = s.getV k1 := by
    rw [hpc1]
    exact memRead_exec_ldMemVx hinv.memWf h hk1 (by omega)
  refine ⟨t, h, ?_⟩
  rw [State.fetch_of_inBounds (by rwa [hpct, hcfg]), hpct, hhigh, hlow]

end Sys2Proof.Machine
end

section
/-! The encoding (30_encoding.md R70 to R78): the round trip, what the decoder answers, and the opcode map. -/

namespace Sys2Proof

/-! ## Decode of encode -/

/-- An instruction's word decodes to it: the pattern's constants sit in the fields the decoder tells it apart by, and its
operands in the fields it reads them from. -/
@[simp] theorem decodeWord_encode (i : Instr) : decodeWord (encode i) = .ok i := by
  cases i with
  | cls | ret => rfl
  | jp | call | ldI | jpV0 => simp [encode, decodeWord]
  | seImm | sneImm | ldImm | addImm | rnd => simp [encode, decodeWord]
  | seReg | sneReg | drw => simp [encode, decodeWord]
  | ldReg | orReg | andReg | xorReg | addReg | sub | shr | subn | shl => simp [encode, decodeWord, decodeEight]
  | skp | sknp => simp [encode, decodeWord, decodeE]
  | ldVxDt | ldVxK | ldDtVx | ldStVx | addI | ldF | ldB | ldMemVx | ldVxMem => simp [encode, decodeWord, decodeF]

/-- Settles O3: the two bytes of the word make the word again, and it decodes to the instruction. -/
theorem decodeOfEncodeIsTheInstruction : Obligations.DecodeOfEncodeIsTheInstruction :=
  fun i _ => ⟨decodeWord_encode i, fun rest => by simp [encodeBytes, decodeBytes, wordOfBytes_split]⟩

/-- Settles O1: each word is its instruction's encoding. -/
theorem opcodeWordsDecode : Obligations.OpcodeWordsDecode :=
  ⟨decodeWord_encode .cls, decodeWord_encode (.call 0x300), decodeWord_encode (.seImm 3 0x2A),
   decodeWord_encode (.ldImm 10 0x7F), decodeWord_encode (.sub 1 2), decodeWord_encode (.ldI 0x2F0),
   decodeWord_encode (.drw 1 2 5), decodeWord_encode (.skp 2), decodeWord_encode (.ldB 5),
   decodeWord_encode (.ldMemVx 2), decodeWord_encode (.ldVxMem 2)⟩

/-! ## The fields -/

/-- A field of `l` bits from bit `s` is the word under the mask of those bits, shifted down (30_encoding.md R73). -/
theorem toNat_extractLsb'_eq_and_shift (op mask : Word) (s l : Nat)
    (hmask : ∀ k < 16, mask.getLsbD k = decide (s ≤ k ∧ k < s + l)) :
    (op.extractLsb' s l).toNat = (op &&& mask).toNat >>> s := by
  refine Nat.eq_of_testBit_eq fun k => ?_
  rw [Nat.testBit_shiftRight, BitVec.testBit_toNat, BitVec.testBit_toNat, BitVec.getLsbD_extractLsb',
    BitVec.getLsbD_and]
  by_cases hk : s + k < 16
  · simp [hmask _ hk, Bool.and_comm]
  · simp [BitVec.getLsbD_of_ge op (s + k) (Nat.le_of_not_lt hk)]

/-- Settles O2: each mask holds exactly the field's bits, and adjacent fields append. -/
theorem fieldsAreMasksAndShifts : Obligations.FieldsAreMasksAndShifts := by
  intro op
  have hNN : fieldNN op = fieldY op ++ fieldN op :=
    (BitVec.extractLsb'_append_extractLsb'_eq_extractLsb' (start₁ := 0) (len₁ := 4) (len₂ := 4) rfl).symm
  have hNNN : fieldNNN op = fieldX op ++ fieldNN op :=
    (BitVec.extractLsb'_append_extractLsb'_eq_extractLsb' (start₁ := 0) (len₁ := 8) (len₂ := 4) rfl).symm
  exact ⟨toNat_extractLsb'_eq_and_shift op _ 12 4 (by decide), toNat_extractLsb'_eq_and_shift op _ 8 4 (by decide),
    toNat_extractLsb'_eq_and_shift op _ 4 4 (by decide), toNat_extractLsb'_eq_and_shift op _ 0 4 (by decide),
    toNat_extractLsb'_eq_and_shift op _ 0 8 (by decide), toNat_extractLsb'_eq_and_shift op _ 0 12 (by decide),
    hNN, by rw [hNNN, hNN]; exact (BitVec.append_assoc (x₁ := fieldX op) (x₂ := fieldY op) (x₃ := fieldN op)).symm⟩

/-! ## What the decoder answers -/

theorem packNNN_of_fields {w : Word} {f : Nibble} (hf : fieldF w = f) : packNNN f (fieldNNN w) = w :=
  hf ▸ packNNN_fields w

theorem packXNN_of_fields {w : Word} {f : Nibble} {nn : Byte} (hf : fieldF w = f) (hnn : fieldNN w = nn) :
    packXNN f (regOf (fieldX w)) nn = w :=
  hf ▸ hnn ▸ packXNN_fields w

theorem packXYN_of_fields {w : Word} {f n : Nibble} (hf : fieldF w = f) (hn : fieldN w = n) :
    packXYN f (regOf (fieldX w)) (regOf (fieldY w)) n = w :=
  hf ▸ hn ▸ packXYN_fields w

/-- A decoder's answer on `w` is right, when the words it should reject are those with `rejected`: an instruction that
encodes to `w`, or the rejection under the word's own name (30_encoding.md R78). -/
def AnswersFor (w : Word) (rejected : Prop) (answer : Except DecodeError Instr) : Prop :=
  match answer with
  | .ok i => encode i = w ∧ ¬ rejected
  | .error e => e = .unrecognized w ∧ rejected

theorem answersFor_ok {w : Word} {p : Prop} {i : Instr} : AnswersFor w p (.ok i) ↔ encode i = w ∧ ¬ p := .rfl

theorem answersFor_error {w : Word} {p : Prop} {e : DecodeError} :
    AnswersFor w p (.error e) ↔ e = .unrecognized w ∧ p := .rfl

theorem AnswersFor.congr {w : Word} {p q : Prop} {r : Except DecodeError Instr} (h : AnswersFor w p r) (hpq : q ↔ p) :
    AnswersFor w q r :=
  propext hpq ▸ h

/-- The words of no row: the six classes of 30_encoding.md R78. -/
def Unlisted (w : Word) : Prop :=
  (fieldF w = 0x0 ∧ w ≠ 0x00E0 ∧ w ≠ 0x00EE) ∨
  (fieldF w = 0x5 ∧ fieldN w ≠ 0) ∨
  (fieldF w = 0x8 ∧ fieldN w ∈ ([0x8, 0x9, 0xA, 0xB, 0xC, 0xD, 0xF] : List Nibble)) ∨
  (fieldF w = 0x9 ∧ fieldN w ≠ 0) ∨
  (fieldF w = 0xE ∧ fieldNN w ∉ ([0x9E, 0xA1] : List Byte)) ∨
  (fieldF w = 0xF ∧ fieldNN w ∉ ([0x07, 0x0A, 0x15, 0x18, 0x1E, 0x29, 0x33, 0x55, 0x65] : List Byte))

theorem decodeZero_answers (w : Word) : AnswersFor w (w ≠ 0x00E0 ∧ w ≠ 0x00EE) (decodeZero w) := by
  unfold decodeZero
  split
  · next h => exact ⟨h.symm, fun hr => hr.1 h⟩
  · next hcls =>
    split
    · next h => exact ⟨h.symm, fun hr => hr.2 h⟩
    · next hret => exact ⟨rfl, hcls, hret⟩

theorem decodeEight_answers {w : Word} (hf : fieldF w = 0x8) :
    AnswersFor w (fieldN w ∈ ([0x8, 0x9, 0xA, 0xB, 0xC, 0xD, 0xF] : List Nibble)) (decodeEight w) := by
  have hother : ∀ n : Nibble, n ∉ ([0x0, 0x1, 0x2, 0x3, 0x4, 0x5, 0x6, 0x7, 0xE] : List Nibble) →
      n ∈ ([0x8, 0x9, 0xA, 0xB, 0xC, 0xD, 0xF] : List Nibble) := by decide
  simp only [decodeEight]
  split
  case h_10 => exact ⟨rfl, hother _ (by simp; tauto)⟩
  all_goals
    next hn => exact ⟨packXYN_of_fields hf hn, by rw [hn]; decide⟩

theorem decodeE_answers {w : Word} (hf : fieldF w = 0xE) :
    AnswersFor w (fieldNN w ∉ ([0x9E, 0xA1] : List Byte)) (decodeE w) := by
  simp only [decodeE]
  split
  case h_3 => exact ⟨rfl, by simp; tauto⟩
  all_goals
    next hnn => exact ⟨packXNN_of_fields hf hnn, by rw [hnn]; decide⟩

theorem decodeF_answers {w : Word} (hf : fieldF w = 0xF) :
    AnswersFor w (fieldNN w ∉ ([0x07, 0x0A, 0x15, 0x18, 0x1E, 0x29, 0x33, 0x55, 0x65] : List Byte)) (decodeF w) := by
  simp only [decodeF]
  split
  case h_10 => exact ⟨rfl, by simp; tauto⟩
  all_goals
    next hnn => exact ⟨packXNN_of_fields hf hnn, by rw [hnn]; decide⟩

/-- `5XY0` and `9XY0` are told apart by N alone (30_encoding.md R77). -/
theorem answersFor_ite_fieldN {w : Word} {f : Nibble} {i : Instr} (hf : fieldF w = f)
    (hi : encode i = packXYN f (regOf (fieldX w)) (regOf (fieldY w)) 0) :
    AnswersFor w (fieldN w ≠ 0) (if fieldN w = 0 then .ok i else .error (.unrecognized w)) := by
  split
  · next hn => exact ⟨hi.trans (packXYN_of_fields hf hn), fun h => h hn⟩
  · next hn => exact ⟨rfl, hn⟩

theorem nibble_mem_all : ∀ f : Nibble,
    f ∈ ([0x0, 0x1, 0x2, 0x3, 0x4, 0x5, 0x6, 0x7, 0x8, 0x9, 0xA, 0xB, 0xC, 0xD, 0xE, 0xF] : List Nibble) := by
  decide

/-- Everything the decoder can answer, family by family of F (30_encoding.md R77, R78). -/
theorem decodeWord_answers (w : Word) : AnswersFor w (Unlisted w) (decodeWord w) := by
  simp only [decodeWord]
  split
  -- The six families some of whose words are unlisted: F is 0, 5, 8, 9, E, F.
  case h_1 hf => exact (decodeZero_answers w).congr (by simp [Unlisted, hf])
  case h_6 hf => exact (answersFor_ite_fieldN hf rfl).congr (by simp [Unlisted, hf])
  case h_9 hf => exact (decodeEight_answers hf).congr (by simp [Unlisted, hf])
  case h_10 hf => exact (answersFor_ite_fieldN hf rfl).congr (by simp [Unlisted, hf])
  case h_15 hf => exact (decodeE_answers hf).congr (by simp [Unlisted, hf])
  case h_16 hf => exact (decodeF_answers hf).congr (by simp [Unlisted, hf])
  -- F takes no other value than the sixteen listed.
  case h_17 => exact absurd (nibble_mem_all (fieldF w)) (by simp; tauto)
  -- The families every word of which decodes.
  case h_2 hf | h_3 hf | h_11 hf | h_12 hf => exact ⟨packNNN_of_fields hf, by simp [Unlisted, hf]⟩
  case h_14 hf => exact ⟨packXYN_of_fields hf rfl, by simp [Unlisted, hf]⟩
  all_goals
    next hf => exact ⟨packXNN_of_fields hf rfl, by simp [Unlisted, hf]⟩

theorem encode_of_decodeWord {w : Word} {i : Instr} (h : decodeWord w = .ok i) : encode i = w :=
  (answersFor_ok.mp (h ▸ decodeWord_answers w)).1

theorem decodeWord_eq_error_iff {w : Word} {e : DecodeError} :
    decodeWord w = .error e ↔ e = .unrecognized w ∧ Unlisted w := by
  have hw := decodeWord_answers w
  cases h : decodeWord w with
  | ok i =>
    rw [h, answersFor_ok] at hw
    simp [hw.2]
  | error e' =>
    obtain ⟨rfl, hr⟩ := answersFor_error.mp (h ▸ hw)
    simp [hr, eq_comm]

/-- Settles O4. -/
theorem encodeOfDecodeIsTheWord : Obligations.EncodeOfDecodeIsTheWord := fun _ _ => encode_of_decodeWord

/-- Settles O6. -/
theorem unrecognizedWordsAreTheListedClasses : Obligations.UnrecognizedWordsAreTheListedClasses :=
  fun _ => decodeWord_eq_error_iff.trans (and_iff_right rfl)

/-! ## The opcode map -/

/-- The word of an instruction matches its row (30_encoding.md R76). -/
theorem row_matches_encode : ∀ i : Instr, i.row.matchesWord (encode i) = true
  | .cls => Laws.EncodesItsRow.cls rfl
  | .ret => Laws.EncodesItsRow.ret rfl
  | .jp nnn => Laws.EncodesItsRow.jp nnn rfl
  | .call nnn => Laws.EncodesItsRow.call nnn rfl
  | .seImm x nn => Laws.EncodesItsRow.seImm x nn rfl
  | .sneImm x nn => Laws.EncodesItsRow.sneImm x nn rfl
  | .seReg x y => Laws.EncodesItsRow.seReg x y rfl
  | .ldImm x nn => Laws.EncodesItsRow.ldImm x nn rfl
  | .addImm x nn => Laws.EncodesItsRow.addImm x nn rfl
  | .ldReg x y => Laws.EncodesItsRow.ldReg x y rfl
  | .orReg x y => Laws.EncodesItsRow.orReg x y rfl
  | .andReg x y => Laws.EncodesItsRow.andReg x y rfl
  | .xorReg x y => Laws.EncodesItsRow.xorReg x y rfl
  | .addReg x y => Laws.EncodesItsRow.addReg x y rfl
  | .sub x y => Laws.EncodesItsRow.sub x y rfl
  | .shr x y => Laws.EncodesItsRow.shr x y rfl
  | .subn x y => Laws.EncodesItsRow.subn x y rfl
  | .shl x y => Laws.EncodesItsRow.shl x y rfl
  | .sneReg x y => Laws.EncodesItsRow.sneReg x y rfl
  | .ldI nnn => Laws.EncodesItsRow.ldI nnn rfl
  | .jpV0 nnn => Laws.EncodesItsRow.jpV0 nnn rfl
  | .rnd x nn => Laws.EncodesItsRow.rnd x nn rfl
  | .drw x y n => Laws.EncodesItsRow.drw x y n rfl
  | .skp x => Laws.EncodesItsRow.skp x rfl
  | .sknp x => Laws.EncodesItsRow.sknp x rfl
  | .ldVxDt x => Laws.EncodesItsRow.ldVxDt x rfl
  | .ldVxK x => Laws.EncodesItsRow.ldVxK x rfl
  | .ldDtVx x => Laws.EncodesItsRow.ldDtVx x rfl
  | .ldStVx x => Laws.EncodesItsRow.ldStVx x rfl
  | .addI x => Laws.EncodesItsRow.addI x rfl
  | .ldF x => Laws.EncodesItsRow.ldF x rfl
  | .ldB x => Laws.EncodesItsRow.ldB x rfl
  | .ldMemVx x => Laws.EncodesItsRow.ldMemVx x rfl
  | .ldVxMem x => Laws.EncodesItsRow.ldVxMem x rfl

theorem row_mem_opcodeMap (i : Instr) : i.row ∈ opcodeMap := by
  cases i <;> exact of_decide_eq_true rfl

theorem OpcodeRow.matchesWord_iff {r : OpcodeRow} {w : Word} : r.matchesWord w = true ↔ w &&& r.mask = r.pat :=
  decide_eq_true_iff

/-- Two rows that match one word agree where both masks look. -/
theorem OpcodeRow.pats_agree {r q : OpcodeRow} {w : Word} (hr : r.matchesWord w = true) (hq : q.matchesWord w = true) :
    r.pat &&& q.mask = q.pat &&& r.mask := by
  rw [← matchesWord_iff.mp hr, ← matchesWord_iff.mp hq, BitVec.and_assoc, BitVec.and_assoc, BitVec.and_comm r.mask]

/-- The rows are disjoint: any two differ where both masks look (30_encoding.md R77). -/
theorem opcodeMap_disjoint : ∀ r ∈ opcodeMap, ∀ q ∈ opcodeMap, r.pat &&& q.mask = q.pat &&& r.mask → r = q := by
  decide

/-- What a row's mask covers: F always, and in each family the bits that tell its members apart (30_encoding.md R77). -/
theorem opcodeMap_masks : ∀ r ∈ opcodeMap,
    fieldF r.mask = 0xF ∧ (fieldF r.pat = 0x0 → r.mask = 0xFFFF) ∧
    (fieldF r.pat ∈ ([0x5, 0x8, 0x9] : List Nibble) → fieldN r.mask = 0xF) ∧
    (fieldF r.pat ∈ ([0xE, 0xF] : List Nibble) → fieldNN r.mask = 0xFF) := by
  decide

theorem opcodeMap_pats_listed : ∀ r ∈ opcodeMap, ¬ Unlisted r.pat := by
  unfold Unlisted
  decide

theorem OpcodeRow.extractLsb'_eq_of_matches {r : OpcodeRow} {w : Word} (h : r.matchesWord w = true) {s l : Nat}
    (hmask : r.mask.extractLsb' s l = BitVec.allOnes l) : w.extractLsb' s l = r.pat.extractLsb' s l := by
  rw [← matchesWord_iff.mp h, BitVec.extractLsb'_and, hmask, BitVec.and_allOnes]

/-- No row matches an unlisted word: the row's own pattern would be unlisted too, as its mask covers the bits that say so. -/
theorem not_unlisted_of_matches {r : OpcodeRow} {w : Word} (hr : r ∈ opcodeMap) (h : r.matchesWord w = true) :
    ¬ Unlisted w := by
  obtain ⟨hmaskF, hall, hN, hNN⟩ := opcodeMap_masks r hr
  have hf : fieldF w = fieldF r.pat := OpcodeRow.extractLsb'_eq_of_matches h hmaskF
  have hw (h0 : fieldF r.pat = 0x0) : w = r.pat := by
    rw [← OpcodeRow.matchesWord_iff.mp h, hall h0]
    exact BitVec.and_allOnes.symm
  have hn (hfam : fieldF r.pat ∈ ([0x5, 0x8, 0x9] : List Nibble)) : fieldN w = fieldN r.pat :=
    OpcodeRow.extractLsb'_eq_of_matches h (hN hfam)
  have hnn (hfam : fieldF r.pat ∈ ([0xE, 0xF] : List Nibble)) : fieldNN w = fieldNN r.pat :=
    OpcodeRow.extractLsb'_eq_of_matches h (hNN hfam)
  refine fun hu => opcodeMap_pats_listed r hr ?_
  unfold Unlisted at hu ⊢
  rw [hf] at hu
  refine hu.imp ?_ (Or.imp ?_ (Or.imp ?_ (Or.imp ?_ (Or.imp ?_ ?_))))
  · exact fun ⟨h0, hu⟩ => ⟨h0, hw h0 ▸ hu⟩
  · exact fun ⟨h5, hu⟩ => ⟨h5, hn (by simp [h5]) ▸ hu⟩
  · exact fun ⟨h8, hu⟩ => ⟨h8, hn (by simp [h8]) ▸ hu⟩
  · exact fun ⟨h9, hu⟩ => ⟨h9, hn (by simp [h9]) ▸ hu⟩
  · exact fun ⟨hE, hu⟩ => ⟨hE, hnn (by simp [hE]) ▸ hu⟩
  · exact fun ⟨hF, hu⟩ => ⟨hF, hnn (by simp [hF]) ▸ hu⟩

/-- Settles O5: a word that decodes is its instruction's encoding, which matches that row and, the rows being disjoint, no
other; a word that does not is unlisted, which no row matches. -/
theorem decoderFollowsTheOpcodeMap : Obligations.DecoderFollowsTheOpcodeMap := by
  refine fun w => ⟨fun i hi => ?_, fun e he => ?_⟩
  · have hrow : i.row.matchesWord w = true := encode_of_decodeWord hi ▸ row_matches_encode i
    exact ⟨row_mem_opcodeMap i, hrow, fun r hr h =>
      opcodeMap_disjoint r hr i.row (row_mem_opcodeMap i) (OpcodeRow.pats_agree h hrow)⟩
  · obtain ⟨rfl, hu⟩ := decodeWord_eq_error_iff.mp he
    exact ⟨rfl, fun r hr => Bool.eq_false_iff.mpr fun h => not_unlisted_of_matches hr h hu⟩

end Sys2Proof
end

section
/-! The instruction cycle when a tick comes (30_encoding.md R71, R72, R78). -/

namespace Sys2Proof.Machine

/-- A word in memory that decodes is run, with PC past it (30_encoding.md R71, R72). -/
theorem fetchAndRun_of_decodes {s : State} {i : Instr} (hb : s.fetchInBounds = true)
    (hd : decodeWord s.fetchWord = .ok i) : fetchAndRun s = exec i s.advancePC := by
  obtain ⟨hb', -⟩ | ⟨-, j, hj, e⟩ | ⟨-, _, herr, -⟩ := fetchAndRun_cases s
  · simp [hb] at hb'
  · cases hd.symm.trans hj
    exact e
  · simp [hd] at herr

/-- A word in memory that does not decode is recorded with its address and skipped (30_encoding.md R78). -/
theorem fetchAndRun_of_unrecognized {s : State} {e : DecodeError} (hb : s.fetchInBounds = true)
    (hd : decodeWord s.fetchWord = .error e) :
    fetchAndRun s = .next { s.advancePC with errlog := s.errlog ++ [⟨s.pc, s.fetchWord⟩] } := by
  obtain ⟨hb', -⟩ | ⟨-, _, hok, -⟩ | ⟨-, _, -, e⟩ := fetchAndRun_cases s
  · simp [hb] at hb'
  · simp [hd] at hok
  · exact e

/-- A fetch that is not wholly in memory halts (30_encoding.md R72, the spec's decision D1). -/
theorem fetchAndRun_of_outOfBounds {s : State} (hb : s.fetchInBounds = false) :
    fetchAndRun s = .next { s with halted := some (.fetchOutOfBounds s.pc) } := by
  obtain ⟨-, e⟩ | ⟨hb', -⟩ | ⟨hb', -⟩ := fetchAndRun_cases s
  · exact e
  · simp [hb] at hb'
  · simp [hb] at hb'

end Sys2Proof.Machine

namespace Sys2Proof

open Machine

/-- When a tick comes, the step is one instruction cycle (30_encoding.md R71). -/
theorem TickComes.step_eq {s s' : State} (h : TickComes s s') : step s = fetchAndRun s' := by
  obtain ⟨hstop, hhalt, ⟨k, b, rest, he, rfl⟩ | ⟨he, rfl⟩⟩ := h
  · calc step s = instrStep k b (s.setEvents rest) := by simp [step_of_event he, handleEvent, hstop]
      _ = fetchAndRun ((s.setEvents rest).latch k b) :=
        instrStep_of_running (s := s.setEvents rest) hhalt k b
  · calc step s = freeInstrStep s := by simp [step_of_no_event he, idleStep, hstop, hhalt]
      _ = fetchAndRun (s.countDraw.latch _ _) := instrStep_of_running (s := s.countDraw) hhalt _ _

/-- A tick changes the inputs alone before its cycle starts (10_state.md R30 to R32). -/
theorem TickComes.eq_inputs {s s' : State} (h : TickComes s s') :
    s' = { s with keys := s'.keys, rnd := s'.rnd, events := s'.events, freeDraws := s'.freeDraws } := by
  obtain ⟨-, -, ⟨_, _, _, -, rfl⟩ | ⟨-, rfl⟩⟩ := h <;> rfl

theorem TickComes.pc {s s' : State} (h : TickComes s s') : s'.pc = s.pc := by rw [h.eq_inputs]

theorem TickComes.errlog {s s' : State} (h : TickComes s s') : s'.errlog = s.errlog := by rw [h.eq_inputs]

theorem TickComes.fetchInBounds {s s' : State} (h : TickComes s s') : s'.fetchInBounds = s.fetchInBounds := by
  rw [h.eq_inputs]; rfl

theorem TickComes.fetchWord {s s' : State} (h : TickComes s s') : s'.fetchWord = s.fetchWord := by
  rw [h.eq_inputs]; rfl

/-- Settles O7. -/
theorem stepRunsTheDecodedInstruction : Obligations.StepRunsTheDecodedInstruction := by
  intro s s' i h hb hd
  have hd' : decodeWord s'.fetchWord = .ok i := (congrArg decodeWord h.fetchWord).trans hd
  rw [h.step_eq, fetchAndRun_of_decodes (h.fetchInBounds.trans (decide_eq_true hb)) hd', ← h.pc]
  rfl

/-- Settles O8. -/
theorem unrecognizedWordIsLoggedAndSkipped : Obligations.UnrecognizedWordIsLoggedAndSkipped := by
  intro s s' w h hb hw hd
  obtain rfl : w = s'.fetchWord := hw.trans h.fetchWord.symm
  rw [h.step_eq, fetchAndRun_of_unrecognized (h.fetchInBounds.trans (decide_eq_true hb)) hd, ← h.pc, ← h.errlog]
  rfl

/-- Settles O9. -/
theorem fetchOutOfBoundsHalts : Obligations.FetchOutOfBoundsHalts := by
  intro s s' h hb
  have hout : s.fetchInBounds = false := decide_eq_false (Nat.not_lt.mpr hb)
  rw [h.step_eq, fetchAndRun_of_outOfBounds (h.fetchInBounds.trans hout), h.pc]

end Sys2Proof
end

section
/-! Clear screen, return, jump, call (40_flow.md R100 to R103). -/

namespace Sys2Proof.Machine

theorem exec_cls (s : State) : exec .cls s = .next (s.showGrid (Grid.blank s.cfg.dispW s.cfg.dispH)) := rfl

theorem exec_ret (s : State) : exec .ret s = .next (s.dropTop.setPC s.top) := rfl

theorem exec_jp (nnn : Imm12) (s : State) : exec (.jp nnn) s = .next (s.setPC (addrOfImm nnn)) := rfl

theorem exec_call (nnn : Imm12) (s : State) :
    exec (.call nnn) s = .next ((s.push s.pc).setPC (addrOfImm nnn)) := rfl

@[simp] theorem addrOfImm_toNat (nnn : Imm12) : (addrOfImm nnn).toNat = nnn.toNat :=
  BitVec.toNat_setWidth_of_le (by decide)

theorem State.dropTop_stack_of_append {s : State} {l : List Addr} {a : Addr} (h : s.stack = l ++ [a]) :
    s.dropTop.stack = l := by
  simp [h]

end Sys2Proof.Machine

namespace Sys2Proof

open Machine

/-- Settles O25. -/
theorem clsTurnsEveryPixelOff : Obligations.ClsTurnsEveryPixelOff := fun s =>
  ⟨_, exec_cls s, Grid.pixel_blank s.cfg.dispW s.cfg.dispH, State.showGrid_dispChanged s _,
   instructionsTouchOnlyTheirParts .cls s _ (exec_cls s)⟩

/-- Settles O26: the two cases of a pop, the empty stack and a stack with a top. -/
theorem retPopsTheReturnAddress : Obligations.RetPopsTheReturnAddress := fun s =>
  ⟨_, exec_ret s, instructionsTouchOnlyTheirParts .ret s _ (exec_ret s),
   fun h => ⟨State.top_of_empty h, (congrArg State.stack (State.dropTop_of_empty h)).trans h⟩,
   fun _ _ h => ⟨State.top_of_append h, State.dropTop_stack_of_append h⟩⟩

/-- Settles O27. -/
theorem jpSetsThePC : Obligations.JpSetsThePC := fun s nnn =>
  ⟨_, exec_jp nnn s, addrOfImm_toNat nnn, instructionsTouchOnlyTheirParts (.jp nnn) s _ (exec_jp nnn s)⟩

/-- Settles O28: the return pops what the call pushed. -/
theorem callPushesThePCAndRetComesBack : Obligations.CallPushesThePCAndRetComesBack := by
  intro s nnn
  refine ⟨_, exec_call nnn s, State.push_stack s s.pc, addrOfImm_toNat nnn,
    instructionsTouchOnlyTheirParts (.call nnn) s _ (exec_call nnn s), fun u hu => ?_⟩
  obtain ⟨v, hv, -, -, hpop⟩ := retPopsTheReturnAddress u
  exact ⟨v, hv, hpop s.stack s.pc hu⟩

end Sys2Proof
end

section
/-! Conditional skips (41_skip.md R110 to R113): each is `skipIf` on its condition. -/

namespace Sys2Proof.Machine

theorem exec_seImm (x : Reg) (nn : Byte) (s : State) :
    exec (.seImm x nn) s = .next (s.skipIf (decide (s.getV x = nn))) := rfl

theorem exec_sneImm (x : Reg) (nn : Byte) (s : State) :
    exec (.sneImm x nn) s = .next (s.skipIf (decide (s.getV x ≠ nn))) := rfl

theorem exec_seReg (x y : Reg) (s : State) :
    exec (.seReg x y) s = .next (s.skipIf (decide (s.getV x = s.getV y))) := rfl

theorem exec_sneReg (x y : Reg) (s : State) :
    exec (.sneReg x y) s = .next (s.skipIf (decide (s.getV x ≠ s.getV y))) := rfl

end Sys2Proof.Machine

namespace Sys2Proof

open Machine

theorem OnlyParts.skipIf (s : State) (c : Bool) : OnlyParts [.pc] s (s.skipIf c) :=
  (OnlyParts.refl [.pc] s).withPC (List.mem_singleton_self _) _

section
variable {i : Instr} {s : State} {c : Bool} {p : Prop} [Decidable p]

/-- The answer of an instruction that skips when `p` holds. -/
theorem skips_when (h : exec i s = .next (s.skipIf c)) (hc : c = true ↔ p) :
    ∃ t, exec i s = .next t ∧ OnlyParts [.pc] s t ∧ t.pc = if p then s.pc + 2 else s.pc :=
  ⟨_, h, OnlyParts.skipIf s c, by simp only [State.skipIf_pc, hc]⟩

/-- The answer of an instruction that skips unless `p` holds. -/
theorem skips_unless (h : exec i s = .next (s.skipIf c)) (hc : c = true ↔ ¬ p) :
    ∃ t, exec i s = .next t ∧ OnlyParts [.pc] s t ∧ t.pc = if p then s.pc else s.pc + 2 :=
  ⟨_, h, OnlyParts.skipIf s c, by simp only [State.skipIf_pc, hc, ite_not]⟩

end

/-- Settles O29: equal skips when, not-equal skips unless, the two values agree. -/
theorem compareSkipsAdvanceOnlyThePC : Obligations.CompareSkipsAdvanceOnlyThePC := fun s x y nn =>
  ⟨skips_when (exec_seImm x nn s) decide_eq_true_iff,
   skips_unless (exec_sneImm x nn s) decide_eq_true_iff,
   skips_when (exec_seReg x y s) decide_eq_true_iff,
   skips_unless (exec_sneReg x y s) decide_eq_true_iff⟩

end Sys2Proof
end

section
/-! Immediate load and add (42_immediate.md R120, R121): both write VX alone, VF no differently from any other register. -/

namespace Sys2Proof.Machine

theorem exec_ldImm (x : Reg) (nn : Byte) (s : State) : exec (.ldImm x nn) s = .next (s.setV x nn) := rfl

theorem exec_addImm (x : Reg) (nn : Byte) (s : State) :
    exec (.addImm x nn) s = .next (s.setV x (s.getV x + nn)) := rfl

end Sys2Proof.Machine

namespace Sys2Proof

open Machine

/-- Settles O30. -/
theorem ldImmSetsTheRegister : Obligations.LdImmSetsTheRegister := fun s x nn =>
  have hexec := exec_ldImm x nn s
  ⟨_, hexec, s.getV_setV_same x nn, instructionsWriteOnlyTheirRegisters (.ldImm x nn) s _ hexec,
   instructionsTouchOnlyTheirParts (.ldImm x nn) s _ hexec⟩

/-- Settles O31: the byte sum is the sum modulo 256. -/
theorem addImmWrapsWithoutFlag : Obligations.AddImmWrapsWithoutFlag := by
  intro s x nn
  have hexec := exec_addImm x nn s
  refine ⟨_, hexec, ?_, instructionsWriteOnlyTheirRegisters (.addImm x nn) s _ hexec,
    instructionsTouchOnlyTheirParts (.addImm x nn) s _ hexec⟩
  calc ((s.setV x (s.getV x + nn)).getV x).toNat
      = (s.getV x + nn).toNat := by rw [State.getV_setV_same]
    _ = ((s.getV x).toNat + nn.toNat) % 256 := BitVec.toNat_add _ _

end Sys2Proof
end

section
/-! The 8XY_ family (43_alu.md R130 to R138): four instructions write VX alone, five write VX and then VF with a
condition's flag. -/

namespace Sys2Proof.Machine

theorem exec_ldReg (x y : Reg) (s : State) : exec (.ldReg x y) s = .next (s.setV x (s.getV y)) := rfl

theorem exec_orReg (x y : Reg) (s : State) : exec (.orReg x y) s = .next (s.setV x (s.getV x ||| s.getV y)) := rfl

theorem exec_andReg (x y : Reg) (s : State) : exec (.andReg x y) s = .next (s.setV x (s.getV x &&& s.getV y)) := rfl

theorem exec_xorReg (x y : Reg) (s : State) : exec (.xorReg x y) s = .next (s.setV x (s.getV x ^^^ s.getV y)) := rfl

theorem exec_addReg (x y : Reg) (s : State) :
    exec (.addReg x y) s = .next (s.setResultAndFlag x (s.getV x + s.getV y) (carryFlag (s.getV x) (s.getV y))) := rfl

theorem exec_sub (x y : Reg) (s : State) :
    exec (.sub x y) s = .next (s.setResultAndFlag x (s.getV x - s.getV y) (noBorrowFlag (s.getV x) (s.getV y))) := rfl

theorem exec_subn (x y : Reg) (s : State) :
    exec (.subn x y) s = .next (s.setResultAndFlag x (s.getV y - s.getV x) (noBorrowFlag (s.getV y) (s.getV x))) := rfl

theorem State.shiftSource_eq (s : State) (x y : Reg) :
    s.shiftSource x y = s.getV (if s.cfg.qShiftAssign then y else x) :=
  (apply_ite s.getV _ y x).symm

theorem exec_shr (x y : Reg) (s : State) :
    exec (.shr x y) s = .next (s.setResultAndFlag x (s.getV (if s.cfg.qShiftAssign then y else x) >>> 1)
      (lowBitFlag (s.getV (if s.cfg.qShiftAssign then y else x)))) := by
  rw [← State.shiftSource_eq]
  rfl

theorem exec_shl (x y : Reg) (s : State) :
    exec (.shl x y) s = .next (s.setResultAndFlag x (s.getV (if s.cfg.qShiftAssign then y else x) <<< 1)
      (highBitFlag (s.getV (if s.cfg.qShiftAssign then y else x)))) := by
  rw [← State.shiftSource_eq]
  rfl

/-! ## The flag values -/

theorem flagOf_flagIs {c : Bool} {p : Prop} (h : c = true ↔ p) : FlagIs (flagOf c) p :=
  ⟨fun hp => if_pos (h.mpr hp), fun hp => if_neg (mt h.mp hp)⟩

theorem carryFlag_flagIs (a b : Byte) : FlagIs (carryFlag a b) (255 < a.toNat + b.toNat) :=
  flagOf_flagIs decide_eq_true_iff

theorem noBorrowFlag_flagIs (a b : Byte) : FlagIs (noBorrowFlag a b) (b.toNat ≤ a.toNat) :=
  flagOf_flagIs decide_eq_true_iff

theorem lowBitFlag_flagIs (a : Byte) : FlagIs (lowBitFlag a) (a.toNat % 2 = 1) := by
  have hbit : a.getLsbD 0 = decide (a.toNat % 2 = 1) := Nat.testBit_zero a.toNat
  exact flagOf_flagIs (hbit ▸ decide_eq_true_iff)

/-- Bit 7 of a byte is its sign bit. -/
theorem highBitFlag_flagIs (a : Byte) : FlagIs (highBitFlag a) (128 ≤ a.toNat) := by
  have hbit : a.getLsbD 7 = decide (128 ≤ a.toNat) :=
    (BitVec.msb_eq_getLsbD_last a).symm.trans (BitVec.msb_eq_decide a)
  exact flagOf_flagIs (hbit ▸ decide_eq_true_iff)

/-- The difference of two bytes is the difference modulo 256 (43_alu.md R135, R137). -/
theorem byte_sub_toNat (a b : Byte) : (a - b).toNat = (a.toNat + 256 - b.toNat) % 256 := by
  rw [BitVec.toNat_sub]
  omega

theorem byte_shiftRight_one_toNat (a : Byte) : (a >>> 1).toNat = a.toNat / 2 :=
  (BitVec.toNat_ushiftRight a 1).trans (Nat.shiftRight_one _)

theorem byte_shiftLeft_one_toNat (a : Byte) : (a <<< 1).toNat = a.toNat * 2 % 256 := by
  rw [BitVec.toNat_shiftLeft, Nat.shiftLeft_eq]

end Sys2Proof.Machine

namespace Sys2Proof

open Machine

theorem OnlyParts.setV (s : State) (x : Reg) (b : Byte) : OnlyParts [.regs] s (s.setV x b) :=
  (OnlyParts.refl [.regs] s).withRegs (List.mem_singleton_self _) _

section
variable {i : Instr} {s : State} {x : Reg} {b f : Byte}

/-- The answer of an instruction that writes VX alone. -/
theorem writes_destination (h : exec i s = .next (s.setV x b)) :
    ∃ t, exec i s = .next t ∧ t.getV x = b ∧ RegsExcept [x] s t ∧ OnlyParts [.regs] s t :=
  ⟨_, h, s.getV_setV_same x b, RegsExcept.setV (fun _ _ => rfl) (List.mem_singleton_self x) b, OnlyParts.setV s x b⟩

/-- The answer of an instruction that writes VX alone, bit by bit. -/
theorem writes_bits {bit : Nat → Bool} (h : exec i s = .next (s.setV x b)) (hb : ∀ k, b.getLsbD k = bit k) :
    ∃ t, exec i s = .next t ∧ RegsExcept [x] s t ∧ OnlyParts [.regs] s t ∧ ∀ k, (t.getV x).getLsbD k = bit k := by
  obtain ⟨t, ht, rfl, hregs, hparts⟩ := writes_destination h
  exact ⟨t, ht, hregs, hparts, hb⟩

/-- The answer of an instruction that writes VX and then VF: with X = 15 the flag is what stays (10_state.md R13). -/
theorem writes_result_and_flag {n : Nat} {p : Prop} (h : exec i s = .next (s.setResultAndFlag x b f))
    (hf : FlagIs f p) (hb : b.toNat = n) :
    ∃ t, exec i s = .next t ∧ FlagIs (t.getV vF) p ∧ (x ≠ vF → (t.getV x).toNat = n) ∧
      RegsExcept [x, vF] s t ∧ OnlyParts [.regs] s t := by
  have hflag : (s.setResultAndFlag x b f).getV vF = f := by rw [State.getV_setResultAndFlag, if_pos rfl]
  have hresult (hx : x ≠ vF) : (s.setResultAndFlag x b f).getV x = b := by
    rw [State.getV_setResultAndFlag, if_neg hx, if_pos rfl]
  have hregs : RegsExcept [x, vF] s (s.setResultAndFlag x b f) :=
    RegsExcept.setV (RegsExcept.setV (fun _ _ => rfl) (by simp) b) (by simp) f
  exact ⟨_, h, hflag.symm ▸ hf, fun hx => (congrArg BitVec.toNat (hresult hx)).trans hb, hregs,
    (OnlyParts.setV s x b).withRegs (List.mem_singleton_self _) _⟩

end

/-- Settles O32. -/
theorem copyAndLogicWriteOnlyTheDestination : Obligations.CopyAndLogicWriteOnlyTheDestination := fun s x y =>
  ⟨writes_destination (exec_ldReg x y s),
   writes_bits (exec_orReg x y s) fun _ => BitVec.getLsbD_or,
   writes_bits (exec_andReg x y s) fun _ => BitVec.getLsbD_and,
   writes_bits (exec_xorReg x y s) fun _ => BitVec.getLsbD_xor⟩

/-- Settles O33. -/
theorem addRegSetsCarryLast : Obligations.AddRegSetsCarryLast := fun s x y =>
  writes_result_and_flag (exec_addReg x y s) (carryFlag_flagIs _ _) (BitVec.toNat_add _ _)

/-- Settles O34: the word is the encoding of 8XY5. -/
theorem subSetsNoBorrowLast : Obligations.SubSetsNoBorrowLast := fun s x y =>
  ⟨decodeWord_encode (.sub x y),
   writes_result_and_flag (exec_sub x y s) (noBorrowFlag_flagIs _ _) (byte_sub_toNat _ _)⟩

/-- Settles O35. -/
theorem subnSetsNoBorrowLast : Obligations.SubnSetsNoBorrowLast := fun s x y =>
  writes_result_and_flag (exec_subn x y s) (noBorrowFlag_flagIs _ _) (byte_sub_toNat _ _)

/-- Settles O36. -/
theorem shrHalvesAndFlagsTheLowBit : Obligations.ShrHalvesAndFlagsTheLowBit := fun s x y =>
  writes_result_and_flag (exec_shr x y s) (lowBitFlag_flagIs _) (byte_shiftRight_one_toNat _)

/-- Settles O37. -/
theorem shlDoublesAndFlagsTheHighBit : Obligations.ShlDoublesAndFlagsTheHighBit := fun s x y =>
  writes_result_and_flag (exec_shl x y s) (highBitFlag_flagIs _) (byte_shiftLeft_one_toNat _)

end Sys2Proof
end

section
/-! Index set and add, jump with offset, random (44_index_jump_random.md R150 to R153). -/

namespace Sys2Proof.Machine

theorem exec_ldI (nnn : Imm12) (s : State) : exec (.ldI nnn) s = .next (s.setI (addrOfImm nnn)) := rfl

theorem exec_rnd (x : Reg) (nn : Byte) (s : State) : exec (.rnd x nn) s = .next (s.setV x (s.rnd &&& nn)) := rfl

theorem State.jumpOffset_eq (s : State) (nnn : Imm12) :
    s.jumpOffset nnn = s.getV (if s.cfg.qJumpVx then offsetReg nnn else 0) :=
  (apply_ite s.getV _ _ _).symm

theorem exec_jpV0 (nnn : Imm12) (s : State) :
    exec (.jpV0 nnn) s =
      .next (s.setPC (addrOfImm nnn + addrOfByte (s.getV (if s.cfg.qJumpVx then offsetReg nnn else 0)))) := by
  rw [← State.jumpOffset_eq]
  rfl

/-- The register a BNNN word names is the quotient of NNN by 256 (30_encoding.md R75). -/
theorem offsetReg_eq {nnn : Imm12} {x : Reg} (hx : x.val = nnn.toNat / 256) : offsetReg nnn = x := by
  apply Fin.ext
  calc (offsetReg nnn).val
      = (nnn.toNat >>> 8) % 16 := BitVec.extractLsb'_toNat 8 4 nnn
    _ = nnn.toNat / 256 := by rw [Nat.shiftRight_eq_div_pow]; omega
    _ = x.val := hx.symm

@[simp] theorem addrOfByte_toNat (b : Byte) : (addrOfByte b).toNat = b.toNat :=
  BitVec.toNat_setWidth_of_le (by decide)

/-- An address plus a byte wraps at 2^16 (44_index_jump_random.md R151). -/
theorem addr_add_byte_toNat (a : Addr) (b : Byte) : (a + addrOfByte b).toNat = (a.toNat + b.toNat) % 65536 := by
  rw [BitVec.toNat_add, addrOfByte_toNat]

/-- NNN plus a byte is at most 0x10FE, so the sum does not wrap (44_index_jump_random.md R152). -/
theorem addrOfImm_add_byte_toNat (nnn : Imm12) (b : Byte) :
    (addrOfImm nnn + addrOfByte b).toNat = nnn.toNat + b.toNat := by
  rw [addr_add_byte_toNat, addrOfImm_toNat]
  omega

theorem indexOverflowFlag_flagIs (i : Addr) (b : Byte) : FlagIs (indexOverflowFlag i b) (0x0FFF < i.toNat + b.toNat) :=
  flagOf_flagIs decide_eq_true_iff

end Sys2Proof.Machine

namespace Sys2Proof

open Machine

/-- Settles O38. -/
theorem ldISetsTheIndex : Obligations.LdISetsTheIndex := fun s nnn =>
  ⟨_, exec_ldI nnn s, addrOfImm_toNat nnn, instructionsTouchOnlyTheirParts (.ldI nnn) s _ (exec_ldI nnn s)⟩

/-- Settles O39: with Q_INDEX_OVF_FLAG, I is written and then VF; without it, I alone. -/
theorem addIWrapsAndFlagsWhenEnabled : Obligations.AddIWrapsAndFlagsWhenEnabled := by
  intro s x
  have hindex : OnlyParts [.regs, .index] s (s.setI (s.i + addrOfByte (s.getV x))) :=
    (OnlyParts.refl _ s).withIndex (by simp) _
  cases hq : s.cfg.qIndexOvfFlag with
  | true =>
    refine ⟨_, exec_addI_of_flag hq x, addr_add_byte_toNat s.i (s.getV x), fun _ => ?_,
      RegsExcept.setV (fun _ _ => rfl) (List.mem_singleton_self vF) _, hindex.withRegs (by simp) _⟩
    rw [State.getV_setFlag, if_pos rfl]
    exact indexOverflowFlag_flagIs s.i (s.getV x)
  | false =>
    exact ⟨_, exec_addI_of_no_flag hq x, addr_add_byte_toNat s.i (s.getV x), nofun, fun _ _ => rfl, hindex⟩

/-- Settles O40. -/
theorem jpV0AddsTheOffsetRegister : Obligations.JpV0AddsTheOffsetRegister := by
  intro s nnn x hx
  have hexec := exec_jpV0 nnn s
  rw [offsetReg_eq hx] at hexec
  exact ⟨_, hexec, addrOfImm_add_byte_toNat nnn _, instructionsTouchOnlyTheirParts (.jpV0 nnn) s _ hexec⟩

/-- Settles O41. -/
theorem rndMasksTheRandomByte : Obligations.RndMasksTheRandomByte := by
  intro s x nn
  obtain ⟨t, ht, hregs, hparts, hbits⟩ := writes_bits (exec_rnd x nn s) fun _ => BitVec.getLsbD_and
  exact ⟨t, ht, hbits, hregs, hparts⟩

end Sys2Proof
end

section
/-! Sprite draw (45_draw.md R160 to R162): the laws of rows, restated for `Draw` with its start wrapped. -/

namespace Sys2Proof.Machine

theorem exec_drw (x y : Reg) (n : Nibble) (s : State) :
    exec (.drw x y n) s =
      .next ((s.showGrid (s.drawResult x y n).1).setFlag (flagOf (s.drawResult x y n).2)) := rfl

/-- A set bit lies in one of the rows given: past the last row `getD` answers a byte with no bit set. -/
theorem spriteCovers_iff {rows : List Byte} {x y c r : Nat} :
    spriteCovers rows x y c r = true ↔
      x ≤ c ∧ c < x + 8 ∧ y ≤ r ∧ r < y + rows.length ∧
        (rows.getD (r - y) 0).getLsbD (7 - (c - x)) = true := by
  have hrow (hy : y ≤ r) (hbit : (rows.getD (r - y) 0).getLsbD (7 - (c - x)) = true) :
      r < y + rows.length := by
    by_contra hout
    rw [List.getD_eq_default _ _ (by omega)] at hbit
    simp at hbit
  simp only [spriteCovers, Bool.and_eq_true, decide_eq_true_eq]
  constructor
  · rintro ⟨⟨hx, hx8, hy⟩, hbit⟩
    exact ⟨hx, hx8, hy, hrow hy hbit, hbit⟩
  · rintro ⟨hx, hx8, hy, -, hbit⟩
    exact ⟨⟨hx, hx8, hy⟩, hbit⟩

/-- Whether `Draw(x, y, rows)` has a set bit at column `c`, row `r` of a `w` by `h` display: the start wraps and the body
clips (90_conflicts.md C1). -/
def spriteHits (w h x y : Nat) (rows : List Byte) (c r : Nat) : Bool :=
  decide (c < w ∧ r < h) && spriteCovers rows (x % w) (y % h) c r

theorem spriteHits_iff {w h x y : Nat} {rows : List Byte} {c r : Nat} :
    spriteHits w h x y rows c r = true ↔
      c < w ∧ r < h ∧ x % w ≤ c ∧ c < x % w + 8 ∧ y % h ≤ r ∧ r < y % h + rows.length ∧
        (rows.getD (r - y % h) 0).getLsbD (7 - (c - x % w)) = true := by
  rw [spriteHits, Bool.and_eq_true, decide_eq_true_iff, spriteCovers_iff, and_assoc]

/-- The sprite falls somewhere on the display exactly when bit `7 - j` of some row `i` is set and lands inside it. -/
theorem exists_spriteHits_iff {w h x y : Nat} {rows : List Byte} :
    (∃ c r, spriteHits w h x y rows c r = true) ↔
      ∃ i j, i < rows.length ∧ j < 8 ∧ (rows.getD i 0).getLsbD (7 - j) = true ∧ x % w + j < w ∧ y % h + i < h := by
  constructor
  · rintro ⟨c, r, hit⟩
    obtain ⟨hcw, hrh, hx, hx8, hy, hyn, hbit⟩ := spriteHits_iff.mp hit
    exact ⟨r - y % h, c - x % w, by omega, by omega, hbit, by omega, by omega⟩
  · rintro ⟨i, j, hi, hj, hbit, hcw, hrh⟩
    refine ⟨x % w + j, y % h + i, spriteHits_iff.mpr
      ⟨hcw, hrh, Nat.le_add_right _ _, by omega, Nat.le_add_right _ _, by omega, ?_⟩⟩
    rwa [Nat.add_sub_cancel_left, Nat.add_sub_cancel_left]

section
variable {w h x y : Nat} {rows : List Byte} {g : Grid}

theorem drawSprite_pixel (hg : Grid.wf w h g) (c r : Nat) :
    (drawSprite w h x y rows g).1.pixel c r = (g.pixel c r ^^ spriteHits w h x y rows c r) :=
  drawRows_pixel rows (d := (g, false)) hg c r

theorem drawSprite_collision (hg : Grid.wf w h g) :
    (drawSprite w h x y rows g).2 = true ↔ ∃ c r, spriteHits w h x y rows c r = true ∧ g.pixel c r = true := by
  simpa [drawSprite, spriteHits, and_assoc] using
    drawRows_collision (x := x % w) (y := y % h) rows (d := (g, false)) hg

/-- `Draw` told by any description `hit` of the pixels its set bits fall on. -/
theorem drawSprite_inverts {hit : Nat → Nat → Prop} (hg : Grid.wf w h g)
    (hhit : ∀ c r, spriteHits w h x y rows c r = true ↔ hit c r) :
    (∀ c r, (hit c r → (drawSprite w h x y rows g).1.pixel c r = !g.pixel c r) ∧
      (¬ hit c r → (drawSprite w h x y rows g).1.pixel c r = g.pixel c r)) ∧
    ((drawSprite w h x y rows g).2 = true ↔ ∃ c r, hit c r ∧ g.pixel c r = true) := by
  refine ⟨fun c r => ?_, ?_⟩
  · rw [drawSprite_pixel hg, ← hhit c r]
    cases spriteHits w h x y rows c r <;> simp
  · simp only [drawSprite_collision hg, hhit]

/-- The second of two equal draws inverts back what the first inverted (45_draw.md R162). -/
theorem drawSprite_drawSprite_pixel (hg : Grid.wf w h g) (c r : Nat) :
    (drawSprite w h x y rows (drawSprite w h x y rows g).1).1.pixel c r = g.pixel c r := by
  rw [drawSprite_pixel (drawSprite_wf x y rows hg), drawSprite_pixel hg, Bool.xor_assoc, Bool.xor_self, Bool.xor_false]

theorem drawSprite_collision_of_clear (hg : Grid.wf w h g) (hoff : ∀ c r, g.pixel c r = false) :
    (drawSprite w h x y rows g).2 = false := by
  rw [Bool.eq_false_iff, Ne, drawSprite_collision hg]
  rintro ⟨c, r, -, hon⟩
  exact Bool.false_ne_true ((hoff c r).symm.trans hon)

/-- After a draw on a clear display the sprite's own pixels are the ones that are on, so the next draw meets them all. -/
theorem drawSprite_drawSprite_collision_of_clear (hg : Grid.wf w h g) (hoff : ∀ c r, g.pixel c r = false) :
    (drawSprite w h x y rows (drawSprite w h x y rows g).1).2 = true ↔
      ∃ c r, spriteHits w h x y rows c r = true := by
  have hdrawn (c r : Nat) : (drawSprite w h x y rows g).1.pixel c r = spriteHits w h x y rows c r := by
    rw [drawSprite_pixel hg, hoff, Bool.false_xor]
  simp only [drawSprite_collision (drawSprite_wf x y rows hg), hdrawn, and_self]

end

@[simp] theorem State.spriteRows_length (s : State) (n : Nibble) : (s.spriteRows n).length = n.toNat :=
  s.memReadAll_length _ _

/-- The rows of a DXYN are the N bytes at I upward (45_draw.md R161). -/
theorem State.spriteRows_getD (s : State) {n : Nibble} {k : Nat} (hk : k < n.toNat) :
    (s.spriteRows n).getD k 0 = s.memRead (s.i.toNat + k) :=
  (s.memReadAll_getD _ _ k).trans (if_pos hk)

theorem spriteHits_spriteRows_iff (s : State) (x y : Reg) (n : Nibble) (c r : Nat) :
    spriteHits s.cfg.dispW s.cfg.dispH (s.getV x).toNat (s.getV y).toNat (s.spriteRows n) c r = true ↔
      SpriteAt s x y n c r := by
  rw [spriteHits_iff, State.spriteRows_length, SpriteAt]
  simp only [and_congr_right_iff]
  intro _ _ _ _ hy hyn
  rw [s.spriteRows_getD (Nat.sub_lt_left_of_lt_add hy hyn)]

end Sys2Proof.Machine

namespace Sys2Proof

open Machine

/-- Settles O43. -/
theorem drawWrapsTheStartAndClipsTheBody : Obligations.DrawWrapsTheStartAndClipsTheBody :=
  fun _ _ _ _ _ _ hg => drawSprite_inverts hg fun _ _ => spriteHits_iff

/-- Settles O44: by involution of the inversion, and since a draw on a clear display turns on exactly its own pixels. -/
theorem drawingTwiceRestoresTheDisplay : Obligations.DrawingTwiceRestoresTheDisplay :=
  fun _ _ _ _ _ _ hg => ⟨drawSprite_drawSprite_pixel hg, fun hoff =>
    ⟨drawSprite_collision_of_clear hg hoff,
     (drawSprite_drawSprite_collision_of_clear hg hoff).trans exists_spriteHits_iff⟩⟩

/-- Settles O42: `Draw` on the bytes at I, and VF written last from its collision. -/
theorem drwInvertsThePixelsUnderTheSprite : Obligations.DrwInvertsThePixelsUnderTheSprite := by
  intro s x y n hg
  have hexec := exec_drw x y n s
  obtain ⟨hpixels, hcollision⟩ := drawSprite_inverts hg (spriteHits_spriteRows_iff s x y n)
  refine ⟨_, hexec, hpixels, ?_, rfl, drawSprite_wf _ _ _ hg,
    instructionsWriteOnlyTheirRegisters (.drw x y n) s _ hexec, instructionsTouchOnlyTheirParts (.drw x y n) s _ hexec⟩
  rw [State.getV_setFlag, if_pos rfl]
  exact flagOf_flagIs hcollision

end Sys2Proof
end

section
/-! Key query, key wait, timer get and set (46_key_timer.md R170 to R175). -/

namespace Sys2Proof.Machine

theorem exec_skp (x : Reg) (s : State) : exec (.skp x) s = .next (s.skipIf (s.keyDown (s.getV x))) := rfl

theorem exec_sknp (x : Reg) (s : State) : exec (.sknp x) s = .next (s.skipIf (!s.keyDown (s.getV x))) := rfl

theorem exec_ldVxDt (x : Reg) (s : State) : exec (.ldVxDt x) s = .next (s.setV x s.dt) := rfl

theorem exec_ldDtVx (x : Reg) (s : State) : exec (.ldDtVx x) s = .next (s.setDT (s.getV x)) := rfl

theorem exec_ldStVx (x : Reg) (s : State) : exec (.ldStVx x) s = .next (s.setST (s.getV x)) := rfl

theorem State.keyDown_iff {s : State} {b : Byte} :
    s.keyDown b = true ↔ b.toNat ≤ 15 ∧ s.keys.getLsbD b.toNat = true := by
  rw [State.keyDown, Bool.and_eq_true, decide_eq_true_iff]

/-- Some key is down, so the search of the sixteen key numbers finds one, and a number below 16 fits in a byte. -/
theorem lowestKey_isLeast {keys : Word} (h : keys ≠ 0) :
    (lowestKey keys).toNat < 16 ∧ keys.getLsbD (lowestKey keys).toNat = true ∧
      ∀ k, k < (lowestKey keys).toNat → keys.getLsbD k = false := by
  cases hfind : (List.range 16).find? fun k => keys.getLsbD k with
  | none =>
    have hup (k : Nat) (hk : k < 16) : keys.getLsbD k = false :=
      (Bool.not_eq_true' _).mp (List.find?_range_eq_none.mp hfind k hk)
    exact absurd (BitVec.eq_of_getLsbD_eq fun k hk => (hup k hk).trans BitVec.getLsbD_zero.symm) h
  | some k =>
    obtain ⟨hdown, hmem, hleast⟩ := List.find?_range_eq_some.mp hfind
    have hk : k < 16 := List.mem_range.mp hmem
    have hlowest : (lowestKey keys).toNat = k := by
      rw [lowestKey, hfind, Option.getD_some, BitVec.toNat_ofNat, Nat.mod_eq_of_lt (by omega)]
    rw [hlowest]
    exact ⟨hk, hdown, fun j hj => (Bool.not_eq_true' _).mp (hleast j hj)⟩

end Sys2Proof.Machine

namespace Sys2Proof

open Machine

/-- Settles O46: no key down is a write of PC alone, a key down one of VX alone. -/
theorem keyWaitRepeatsOrTakesTheLeastKey : Obligations.KeyWaitRepeatsOrTakesTheLeastKey := by
  intro s x
  by_cases hkeys : s.keys = 0
  · exact ⟨_, exec_ldVxK_of_no_key hkeys x,
      fun _ => ⟨rfl, (OnlyParts.refl [.pc] s).withPC (List.mem_singleton_self _) _⟩,
      fun hdown => absurd hkeys hdown⟩
  · obtain ⟨t, ht, hx, hregs, hparts⟩ := writes_destination (exec_ldVxK_of_key hkeys x)
    obtain ⟨hlt, hdown, hleast⟩ := lowestKey_isLeast hkeys
    refine ⟨t, ht, fun hnone => absurd hnone hkeys, fun _ => ?_⟩
    rw [hx]
    exact ⟨hlt, hdown, hleast, hregs, hparts⟩

/-- Settles O45: one condition, `KeyDown` of VX, for the skip and for its complement. -/
theorem keySkipsReadTheSnapshot : Obligations.KeySkipsReadTheSnapshot := fun s x =>
  ⟨skips_when (exec_skp x s) State.keyDown_iff,
   skips_unless (exec_sknp x s) (by rw [Bool.not_eq_true', ← Bool.not_eq_true, State.keyDown_iff])⟩

/-- Settles O47. -/
theorem readDelayTimerCopiesDT : Obligations.ReadDelayTimerCopiesDT := fun s x => writes_destination (exec_ldVxDt x s)

/-- Settles O48: each is a write of one Timer's value. -/
theorem setTimersStoreTheRegister : Obligations.SetTimersStoreTheRegister := fun s x =>
  ⟨⟨_, exec_ldDtVx x s, rfl, rfl, (OnlyParts.refl [.dt] s).withDT (List.mem_singleton_self _) _⟩,
   ⟨_, exec_ldStVx x s, rfl, (OnlyParts.refl [.st] s).withST (List.mem_singleton_self _) _⟩⟩

end Sys2Proof
end

section
/-! Every step keeps the invariant (10_state.md R23, R27; 60_exceptions.md R211, R213). -/

namespace Sys2Proof.Machine

/-! ## The Timers -/

theorem TicksTo.bounds {f p : Nat} {t t' : Timer} (h : TicksTo f p t t') (hp : 1 ≤ p) (hacc : t.acc < p)
    (hvalue : t.value ≤ f) : t'.acc < p ∧ t'.value ≤ f := by
  obtain rfl | ⟨d, rfl⟩ := h
  · exact ⟨hacc, hvalue⟩
  · exact ⟨Timer.tick_acc_lt hp t d, Timer.tick_value_le hvalue d⟩

theorem DelayChange.dtAcc_lt {s t : State} (h : DelayChange s t) (hp : 1 ≤ s.cfg.dclkPeriod)
    (hacc : s.dtAcc < s.cfg.dclkPeriod) : t.dtAcc < s.cfg.dclkPeriod := by
  obtain ⟨-, e⟩ | ⟨-, e, -⟩ | ⟨d, -, -, -, e⟩ := h <;> rw [e]
  · exact hacc
  · exact hacc
  · exact Timer.tick_acc_lt hp s.delayTimer d

/-! ## The invariant across a change of some fields -/

section
variable {s t : State}

/-- A state with the same configuration whose display and memory are well formed and whose Timers are within bounds. -/
theorem State.Inv.of_bounds (hs : s.Inv) (hcfg : t.cfg = s.cfg) (hpx : Grid.wf s.cfg.dispW s.cfg.dispH t.px)
    (hmem : Memory.wf s.cfg.memSize t.mem) (hiclk : t.iclk.acc < s.cfg.iclkPeriod ∧ t.iclk.value ≤ s.cfg.iclkFreq)
    (hdt : t.dtAcc < s.cfg.dclkPeriod) : t.Inv where
  cfgLegal := hcfg ▸ hs.cfgLegal
  memWf := hcfg ▸ hmem
  gridWf := hcfg ▸ hpx
  iclkAccBelow := hcfg ▸ hiclk.1
  iclkValueBound := hcfg ▸ hiclk.2
  dtAccBelow := hcfg ▸ hdt

/-- A state with the same Timers whose memory and display are well formed. -/
theorem State.Inv.of_wf (hs : s.Inv) (hcfg : t.cfg = s.cfg) (hpx : Grid.wf s.cfg.dispW s.cfg.dispH t.px)
    (hmem : Memory.wf s.cfg.memSize t.mem) (hiclk : t.iclk = s.iclk) (hdt : t.dtAcc = s.dtAcc) : t.Inv :=
  hs.of_bounds hcfg hpx hmem (hiclk ▸ ⟨hs.iclkAccBelow, hs.iclkValueBound⟩) (hdt ▸ hs.dtAccBelow)

theorem State.Inv.of_eq (hs : s.Inv) (hcfg : t.cfg = s.cfg) (hpx : t.px = s.px) (hmem : t.mem = s.mem)
    (hiclk : t.iclk = s.iclk) (hdt : t.dtAcc = s.dtAcc) : t.Inv :=
  hs.of_wf hcfg (hpx ▸ hs.gridWf) (hmem ▸ hs.memWf) hiclk hdt

theorem State.Inv.memWriteAll (hs : s.Inv) (a : Nat) (bs : List Byte) : (s.memWriteAll a bs).Inv := by
  rw [State.memWriteAll_eq]
  exact hs.of_wf rfl hs.gridWf (State.memWriteAll_wf hs.memWf a bs) rfl rfl

theorem State.Inv.loadRegs (hs : s.Inv) (x : Reg) : (s.loadRegs x).Inv :=
  hs.of_eq (State.loadRegs_cfg s x) (State.loadRegs_px s x) (State.loadRegs_mem s x) (State.loadRegs_iclk s x)
    (State.loadRegs_dtAcc s x)

theorem State.Inv.advanceI (hs : s.Inv) (x : Reg) : (s.advanceI x).Inv := hs.of_eq rfl rfl rfl rfl rfl

/-! ## The instruction cycle -/

/-- Every instruction keeps the invariant: 00E0 and DXYN write the display, FX33 and FX55 memory, and no other writes
anything the invariant speaks of (10_state.md R23; 20_memory.md R40). -/
theorem exec_inv {i : Instr} (hs : s.Inv) (h : exec i s = .next t) : t.Inv := by
  cases i with
  | cls =>
    cases h
    exact hs.of_wf rfl (Grid.blank_wf _ _) hs.memWf rfl rfl
  | drw x y n =>
    cases h
    exact hs.of_wf rfl (drawSprite_wf _ _ _ hs.gridWf) hs.memWf rfl rfl
  | ldB x =>
    cases h
    exact hs.memWriteAll _ _
  | ldMemVx x =>
    cases h
    exact (hs.memWriteAll _ _).advanceI x
  | ldVxMem x =>
    cases h
    exact (hs.loadRegs x).advanceI x
  | addI x | ldVxK x =>
    cases h
    split <;> exact hs.of_eq rfl rfl rfl rfl rfl
  | _ =>
    cases h
    exact hs.of_eq rfl rfl rfl rfl rfl

theorem fetchAndRun_inv (hs : s.Inv) (h : fetchAndRun s = .next t) : t.Inv := by
  obtain ⟨-, e⟩ | ⟨-, i, -, e⟩ | ⟨-, _, -, e⟩ := fetchAndRun_cases s <;> rw [e] at h
  · cases h
    exact hs.of_eq rfl rfl rfl rfl rfl
  · have hadvanced : s.advancePC.Inv := hs.of_eq rfl rfl rfl rfl rfl
    exact exec_inv hadvanced h
  · cases h
    exact hs.of_eq rfl rfl rfl rfl rfl

/-! ## The step -/

theorem RunsFrom.inv (hs : s.Inv) (h : RunsFrom s t) : t.Inv := by
  obtain ⟨-, hiclk, ht⟩ := h
  have hbounds := hiclk.bounds (Config.periods_pos_of_legal hs.cfgLegal).1 hs.iclkAccBelow hs.iclkValueBound
  rw [ht]
  exact hs.of_bounds rfl hs.gridWf hs.memWf hbounds hs.dtAccBelow

theorem RunsNothing.inv (hs : s.Inv) (h : RunsNothing s t) : t.Inv := by
  obtain ⟨hiclk, hdt, ht⟩ := h
  obtain ⟨hiclkPeriod, hdclkPeriod⟩ := Config.periods_pos_of_legal hs.cfgLegal
  have hbounds := hiclk.bounds hiclkPeriod hs.iclkAccBelow hs.iclkValueBound
  have hacc := hdt.dtAcc_lt hdclkPeriod hs.dtAccBelow
  rw [ht]
  exact hs.of_bounds rfl hs.gridWf hs.memWf hbounds hacc

theorem State.Inv.load (hs : s.Inv) (font prog : List Byte) : (s.load font prog).Inv :=
  (hs.memWriteAll _ font).memWriteAll _ prog

/-- A reset engine meets the invariant as the reset state of its configuration does (70_reset_and_hazards.md R231). -/
theorem State.Inv.construct (hs : s.Inv) {font prog : Option (List Byte)} (h : s.construct font prog = .next t) :
    t.Inv := by
  obtain ⟨f, p, -, -, rfl⟩ := State.construct_eq_next_iff.mp h
  have hreset := State.resetWith_inv hs.cfgLegal
  have hengine : s.resetEngine.Inv := hreset.of_eq rfl rfl rfl rfl rfl
  exact hengine.load f p

end

/-- Settles O15, by the three shapes a step can have: an instruction cycle, an event that runs none, a reset. -/
theorem stepKeepsTheInvariant : Obligations.StepKeepsTheInvariant := by
  intro s t hs h
  obtain ⟨u, hu, e⟩ | ⟨t', ht', e⟩ | ⟨font, prog, rest, -, e⟩ := step_cases s <;> rw [e] at h
  · exact fetchAndRun_inv (hu.inv hs) h
  · cases h
    exact ht'.inv hs
  · have hrest : (s.setEvents rest).Inv := hs.of_eq rfl rfl rfl rfl rfl
    exact hrest.construct h

end Sys2Proof.Machine
end

section
/-! What a halted engine keeps, and which steps fault (60_exceptions.md R200, R202, R203; 70_reset_and_hazards.md
R231). -/

namespace Sys2Proof.Machine

/-! ## The halted engine -/

/-- DT changes on a delay tick or a tick call of the delay Timer (10_state.md R21). -/
theorem DelayChange.event_of_dt_ne {s t : State} (h : DelayChange s t) (hdt : t.dt ≠ s.dt) :
    (∃ rest, s.events = .delayTick :: rest) ∨ ∃ d rest, s.events = .tickDelayTimer d :: rest := by
  obtain ⟨e, -⟩ | ⟨-, -, he⟩ | ⟨d, rest, he, -, -⟩ := h
  · exact absurd e hdt
  · exact .inl he
  · exact .inr ⟨d, rest, he⟩

/-- Settles O10: a halted engine runs no instruction cycle, and the hypothesis shuts out a reset, so that the step is an
event that runs nothing. -/
theorem haltedEngineKeepsEverythingButDelayTime : Obligations.HaltedEngineKeepsEverythingButDelayTime := by
  intro s t c hc hr h
  obtain ⟨u, ⟨hrunning, -, -⟩, -⟩ | ⟨t', ⟨-, hdt, ht'⟩, e⟩ | ⟨font, prog, rest, he, -⟩ := step_cases s
  · simp [hc] at hrunning
  · cases e.symm.trans h
    rw [ht']
    exact ⟨hc, rfl, rfl, rfl, rfl, rfl, rfl, rfl, rfl, hdt.event_of_dt_ne⟩
  · simp [State.resetNext, he] at hr

/-! ## Completion and faults -/

/-- Settles O53: every instruction's meaning is a next state. -/
theorem everyInstructionCompletes : Obligations.EveryInstructionCompletes := by
  intro i s
  cases i with
  | _ => exact ⟨_, rfl⟩

/-- The instruction cycle never faults and never refuses (60_exceptions.md R200). -/
theorem fetchAndRun_completes (s : State) : ∃ t, fetchAndRun s = .next t := by
  obtain ⟨-, e⟩ | ⟨-, i, -, e⟩ | ⟨-, _, -, e⟩ := fetchAndRun_cases s
  · exact ⟨_, e⟩
  · obtain ⟨t, ht⟩ := everyInstructionCompletes i s.advancePC
    exact ⟨t, e.trans ht⟩
  · exact ⟨_, e⟩

/-- A step completes or is a reset. -/
theorem step_completes_or_resets (s : State) :
    (∃ t, step s = .next t) ∨
      ∃ font prog rest, s.events = .reset font prog :: rest ∧ step s = (s.setEvents rest).construct font prog := by
  obtain ⟨u, -, e⟩ | ⟨t, -, e⟩ | hreset := step_cases s
  · obtain ⟨t, ht⟩ := fetchAndRun_completes u
    exact .inl ⟨t, e.trans ht⟩
  · exact .inl ⟨t, e⟩
  · exact .inr hreset

/-- Construction fails exactly on an unreadable image (60_exceptions.md R203). -/
theorem State.construct_eq_fault_iff {s : State} {font prog : Option (List Byte)} {r : Fault} :
    s.construct font prog = .fault r ↔ r = .loadFailure ∧ (font = none ∨ prog = none) := by
  cases font <;> cases prog <;> simp [State.construct, State.raise, eq_comm]

theorem State.construct_ne_refused (s : State) (font prog : Option (List Byte)) (r : Refusal) :
    s.construct font prog ≠ .refused r := by
  cases font <;> cases prog <;> simp [State.construct, State.raise]

/-- Settles O13: only construction can answer anything but a next state. -/
theorem onlyAnUnreadableImageFaults : Obligations.OnlyAnUnreadableImageFaults := by
  refine fun s => ⟨fun r => ⟨fun h => ?_, ?_⟩, fun r h => ?_⟩
  · obtain ⟨t, ht⟩ | ⟨font, prog, rest, he, e⟩ := step_completes_or_resets s
    · cases ht.symm.trans h
    · obtain ⟨hr, hunreadable⟩ := State.construct_eq_fault_iff.mp (e.symm.trans h)
      exact ⟨hr, font, prog, rest, he, hunreadable⟩
  · rintro ⟨hr, font, prog, rest, he, hunreadable⟩
    exact (step_of_event he).trans (State.construct_eq_fault_iff.mpr ⟨hr, hunreadable⟩)
  · obtain ⟨t, ht⟩ | ⟨font, prog, rest, -, e⟩ := step_completes_or_resets s
    · cases ht.symm.trans h
    · exact State.construct_ne_refused _ font prog r (e.symm.trans h)

end Sys2Proof.Machine
end

section
/-! The Timers and the driver (60_exceptions.md R211 to R215). -/

namespace Sys2Proof.Machine

/-! ## The Timer step -/

theorem timerStep_lt_256 {f v : Nat} (hf : f ≤ 255) (hv : v < 256) : timerStep f v < 256 := by
  unfold timerStep
  split <;> omega

theorem timerStep_repeat_of_le {f v k : Nat} (h : k ≤ v) : Nat.repeat (timerStep f) k v = v - k := by
  induction k with
  | zero => rfl
  | succ k ih =>
    rw [Nat.repeat, ih (by omega), timerStep, if_neg (by omega)]
    omega

/-- `v + 1` steps from `v` come to the frequency, and the count goes down from there (60_exceptions.md R212). -/
theorem timerStep_repeat_past_zero {f v k : Nat} (h : k ≤ f) : Nat.repeat (timerStep f) (v + 1 + k) v = f - k := by
  induction k with
  | zero =>
    have hzero : Nat.repeat (timerStep f) v v = 0 := (timerStep_repeat_of_le le_rfl).trans (Nat.sub_self v)
    rw [Nat.add_zero, Nat.repeat, hzero]
    rfl
  | succ k ih =>
    rw [← Nat.add_assoc, Nat.repeat, ih (by omega), timerStep, if_neg (by omega)]
    omega

theorem timerStep_cycle {f v : Nat} (h : v ≤ f) : Nat.repeat (timerStep f) (f + 1) v = v := by
  have hsteps : f + 1 = v + 1 + (f - v) := by omega
  rw [hsteps, timerStep_repeat_past_zero (Nat.sub_le f v)]
  omega

/-! ## The delay Timer -/

/-- DT holds the count a delay step makes, where DT_FREQ fits in a byte (60_exceptions.md R212; the spec's decision
D14). -/
theorem State.delayStep_dt_toNat {s : State} (h : s.cfg.dtFreq ≤ 255) :
    s.delayStep.dt.toNat = if s.dt.toNat = 0 then s.cfg.dtFreq else s.dt.toNat - 1 :=
  (BitVec.toNat_ofNat _ 8).trans (Nat.mod_eq_of_lt (timerStep_lt_256 h s.dt.isLt))

theorem State.tickDelay_of_full {s : State} {d : Nat} (h : s.cfg.dclkPeriod ≤ s.dtAcc + d) :
    s.tickDelay d = { s.delayStep with dtAcc := 0 } := by
  rw [State.tickDelay, Timer.tick_of_full (t := s.delayTimer) h]
  rfl

theorem State.tickDelay_of_part {s : State} {d : Nat} (h : s.dtAcc + d < s.cfg.dclkPeriod) :
    s.tickDelay d = { s with dtAcc := s.dtAcc + d } := by
  have hdt : BitVec.ofNat 8 s.delayTimer.value = s.dt := (BitVec.ofNat_toNat 8 s.dt).trans (BitVec.setWidth_eq s.dt)
  rw [State.tickDelay, Timer.tick_of_part (t := s.delayTimer) h]
  simp only [hdt]
  rfl

/-- Settles O16. -/
theorem delayStepWrapsFromZeroToFrequency : Obligations.DelayStepWrapsFromZeroToFrequency := by
  refine ⟨fun s rest he hstop hfreq => ⟨(s.setEvents rest).delayStep, ?_, State.delayStep_dt_toNat hfreq, rfl⟩,
    fun f v => timerStep_cycle⟩
  simp [step_of_event he, handleEvent, hstop]

/-! ## Tick calls -/

theorem tickInstrAndRun_of_full {s : State} {d : Nat} (h : s.cfg.iclkPeriod ≤ s.iclk.acc + d) (k : Word) (b : Byte) :
    tickInstrAndRun d k b s = instrStep k b { s with iclk := ⟨timerStep s.cfg.iclkFreq s.iclk.value, 0⟩ } := by
  simp [tickInstrAndRun, State.instrTimerFires, State.tickInstr, Timer.tick_of_full h]

theorem tickInstrAndRun_of_part {s : State} {d : Nat} (h : s.iclk.acc + d < s.cfg.iclkPeriod) (k : Word) (b : Byte) :
    tickInstrAndRun d k b s = .next { s with iclk := ⟨s.iclk.value, s.iclk.acc + d⟩ } := by
  simp [tickInstrAndRun, State.instrTimerFires, State.tickInstr, Timer.tick_of_part h]

/-- Settles O17: each Timer at a full period and short of one. -/
theorem tickMakesAtMostOneStep : Obligations.TickMakesAtMostOneStep := by
  constructor
  · intro s d rest he hstop hfreq
    refine ⟨(s.setEvents rest).tickDelay d, by simp [step_of_event he, handleEvent, hstop], rfl, fun hfull => ?_,
      fun hpart => ?_⟩
    · rw [State.tickDelay_of_full (s := s.setEvents rest) hfull]
      exact ⟨rfl, State.delayStep_dt_toNat hfreq⟩
    · rw [State.tickDelay_of_part (s := s.setEvents rest) hpart]
      exact ⟨rfl, rfl⟩
  · intro s d k b rest he hstop
    have hstep : step s = tickInstrAndRun d k b (s.setEvents rest) := by simp [step_of_event he, handleEvent, hstop]
    exact ⟨fun hfull => hstep.trans (tickInstrAndRun_of_full (s := s.setEvents rest) hfull k b),
      fun hpart => hstep.trans (tickInstrAndRun_of_part (s := s.setEvents rest) hpart k b)⟩

/-! ## The driver -/

/-- The two orders of a driver iteration (60_exceptions.md R214). -/
theorem driverTicks_eq (c : Config) (d : Nat) (k : Word) (b : Byte) :
    driverTicks c d k b =
      if c.tickOrder = .delayFirst then [.tickDelayTimer d, .tickInstrTimer d k b]
      else [.tickInstrTimer d k b, .tickDelayTimer d] := by
  cases h : c.tickOrder <;> simp [driverTicks, h]

/-- Settles O18. -/
theorem driverFeedsBothTimersTheSameDelta : Obligations.DriverFeedsBothTimersTheSameDelta := by
  intro s d k b rest he hstop
  rw [← driverTicks_eq]
  simp [step_of_event he, handleEvent, hstop, State.setEvents]

end Sys2Proof.Machine
end

section
/-! Font lookup, binary-coded decimal, register store and load (47_font_bcd_memory.md R180 to R183). -/

namespace Sys2Proof.Machine

theorem exec_ldF (x : Reg) (s : State) : exec (.ldF x) s = .next (s.setI (fontAddr s.cfg (s.getV x))) := rfl

theorem exec_ldB (x : Reg) (s : State) :
    exec (.ldB x) s = .next (s.memWriteAll s.i.toNat (bcdDigits (s.getV x))) := rfl

theorem exec_ldMemVx (x : Reg) (s : State) :
    exec (.ldMemVx x) s = .next ((s.memWriteAll s.i.toNat (s.regsUpTo x)).advanceI x) := rfl

theorem exec_ldVxMem (x : Reg) (s : State) : exec (.ldVxMem x) s = .next ((s.loadRegs x).advanceI x) := rfl

/-- The default formula of FONT_ADDR (47_font_bcd_memory.md R180, the spec's decision D12). -/
theorem fontAddr_toNat_of_no_table {c : Config} (h : c.fontTable = none) (b : Byte) :
    (fontAddr c b).toNat = (c.fontBase.toNat + 5 * (b.toNat % 16)) % 65536 := by
  have hnibble : (b &&& 0x0F).toNat = b.toNat % 16 := Nat.and_two_pow_sub_one_eq_mod b.toNat 4
  rw [fontAddr, h, BitVec.toNat_add, BitVec.toNat_ofNat, hnibble, Nat.add_mod_mod]

theorem fontAddr_of_table {c : Config} {table : Vector Addr 256} (h : c.fontTable = some table) (b : Byte) :
    fontAddr c b = table[b.toNat]'b.isLt := by
  rw [fontAddr, h]
  rfl

/-- Byte `k` of a write, where it is in bounds (20_memory.md R42). -/
theorem State.memRead_memWriteAll_add {s : State} (hm : Memory.wf s.cfg.memSize s.mem) {a k : Nat} {bs : List Byte}
    (hk : k < bs.length) (hb : a + k < s.cfg.memSize) : (s.memWriteAll a bs).memRead (a + k) = bs[k] := by
  rw [State.memRead_memWriteAll hm, if_pos ⟨Nat.le_add_right a k, Nat.add_lt_add_left hk a, hb⟩,
    Nat.add_sub_cancel_left, List.getD_eq_getElem _ _ hk]

/-- The post-increment of I (47_font_bcd_memory.md R182, R183, the spec's decision D4). -/
theorem State.advanceI_i_toNat (s : State) (x : Reg) :
    (s.advanceI x).i.toNat = if s.cfg.qMemIncI then (s.i.toNat + x.val + 1) % 65536 else s.i.toNat := by
  cases hq : s.cfg.qMemIncI with
  | true => simp [hq, Nat.add_assoc]
  | false => simp [hq]

/-- The digits fit in their bytes (47_font_bcd_memory.md R181). -/
theorem bcdDigits_getElem_toNat (b : Byte) {k : Nat} (hk : k < (bcdDigits b).length) :
    (bcdDigits b)[k].toNat = [b.toNat / 100, b.toNat / 10 % 10, b.toNat % 10][k] := by
  match k, hk with
  | 0, _ | 1, _ | 2, _ => exact (BitVec.toNat_ofNat _ 8).trans (Nat.mod_eq_of_lt (by omega))

/-- What FX33 stores at I + K is digit K of VX, where that is in bounds (47_font_bcd_memory.md R181). -/
theorem memRead_exec_ldB {s t : State} (hm : Memory.wf s.cfg.memSize s.mem) {x : Reg} (h : exec (.ldB x) s = .next t)
    {k : Nat} (hk : k < 3) (hb : s.i.toNat + k < s.cfg.memSize) :
    (t.memRead (s.i.toNat + k)).toNat =
      [(s.getV x).toNat / 100, (s.getV x).toNat / 10 % 10, (s.getV x).toNat % 10][k] := by
  cases (exec_ldB x s).symm.trans h
  rw [State.memRead_memWriteAll_add hm hk hb]
  exact bcdDigits_getElem_toNat (s.getV x) hk

end Sys2Proof.Machine

namespace Sys2Proof

open Machine

/-- A write of several bytes keeps every byte outside its addresses (20_memory.md R42). -/
theorem BytesExcept.memWriteAll {s : State} (hm : Memory.wf s.cfg.memSize s.mem) (a : Nat) (bs : List Byte) :
    BytesExcept a bs.length s (s.memWriteAll a bs) := by
  intro b hb
  rw [State.memRead_memWriteAll hm, if_neg fun ⟨hlow, hhigh, _⟩ => hb ⟨hlow, hhigh⟩]

/-- Settles O49. -/
theorem fontLookupSetsTheIndex : Obligations.FontLookupSetsTheIndex := fun s x =>
  ⟨_, exec_ldF x s, instructionsTouchOnlyTheirParts (.ldF x) s _ (exec_ldF x s),
   fun h => fontAddr_toNat_of_no_table h (s.getV x), fun _ h => fontAddr_of_table h (s.getV x)⟩

/-- Settles O50: byte by byte, each digit at its own address. -/
theorem bcdStoresTheThreeDigits : Obligations.BcdStoresTheThreeDigits := by
  intro s x hinv
  have hexec := exec_ldB x s
  have hkept : BytesExcept s.i.toNat 3 s _ := BytesExcept.memWriteAll hinv.memWf s.i.toNat (bcdDigits (s.getV x))
  have hdigit {k : Nat} (hk : k < 3) := memRead_exec_ldB hinv.memWf hexec hk
  have hhundreds := hdigit (k := 0) (by decide)
  have htens := hdigit (k := 1) (by decide)
  have hones := hdigit (k := 2) (by decide)
  simp only [Nat.add_zero, List.getElem_cons_zero, List.getElem_cons_succ] at hhundreds htens hones
  refine ⟨_, hexec, instructionsTouchOnlyTheirParts (.ldB x) s _ hexec, hkept, hhundreds, htens,
    fun h => ⟨hones h, ?_⟩⟩
  rw [hhundreds (by omega), htens (by omega), hones h]
  omega

/-- Settles O51. -/
theorem storeRegistersWritesTheRange : Obligations.StoreRegistersWritesTheRange := by
  intro s x hinv
  have hexec := exec_ldMemVx x s
  refine ⟨_, hexec, fun k hk hb => memRead_exec_ldMemVx hinv.memWf hexec hk hb, fun a ha => ?_, ?_,
    ((OnlyParts.refl _ s).memWriteAll (by simp) _ _).advanceI (by simp) x⟩
  · rw [State.memRead_advanceI]
    exact BytesExcept.memWriteAll hinv.memWf _ _ a ((s.regsUpTo_length x).symm ▸ ha)
  · rw [State.advanceI_i_toNat, State.memWriteAll_cfg, State.memWriteAll_i]

/-- Settles O52: each register up to VX is loaded, and a load from outside memory reads 0. -/
theorem loadRegistersReadsTheRange : Obligations.LoadRegistersReadsTheRange := by
  intro s x
  refine ⟨_, exec_ldVxMem x s, fun k hk => ?_, fun k hk => ?_, State.advanceI_i_toNat (s.loadRegs x) x,
    ((OnlyParts.refl _ s).withRegs (by simp) _).advanceI (by simp) x⟩
  · rw [State.getV_advanceI, State.getV_loadRegs, if_pos hk]
    split
    · rfl
    · exact s.memRead_of_size_le (Nat.not_lt.mp ‹_›)
  · rw [State.getV_advanceI, State.getV_loadRegs, if_neg (Fin.not_le.mpr hk)]

end Sys2Proof
end
